-- ==== Sys2Proof/Word.lean ====
section
/-! DEFINITION. The words of the machine (00_scope.md R3, R6, R9): fixed widths, bit 0 the least significant. -/

namespace Sys2Proof

/-- A Float32 bit pattern: the value on `f32_in`, on `f32_out` and on a harness wire `w0`..`w7` (R35 to R37). -/
abbrev F32 := BitVec 32

/-- A Packed16 bit pattern: the value on `f16_in`, on `f16_out` and on a harness wire `h0`..`h7` (R39 to R42). -/
abbrev F16 := BitVec 16

/-- One 16-bit word of the harness's program (R49). It is a unit: no byte order is involved. -/
abbrev HWord := BitVec 16

/-- The number of a harness wire, `0` to `7`: the `D` and `S` of R49. -/
abbrev WireIx := Fin 8

end Sys2Proof
end

