-- ==== Sys2Proof/Config.lean ====
section
/-! DEFINITION. What the spec leaves to the implementation (00_scope.md R7, R8; 92_eei_decisions.md D5, D18). Every
value here is open: it has no body, so no proof can see it. -/

namespace Sys2Proof

/-- The sign of the generic NaN, open (93_implementation_defined.md U2). -/
opaque Config.decNanSign : BitVec 1

/-- The fraction of the generic NaN, less one: R7 asks only that the fraction is not zero, so the fraction is this
number plus one, and every nonzero 23-bit fraction is reached. -/
opaque Config.decNanFractionPred : Fin 8388607

/-- `DEC_NAN` (R7, R74): the one Float32 NaN the decoder returns for every NaN input, its exponent field all ones, its
fraction not zero, its sign and its fraction otherwise open (log 3). -/
def Config.decNan : F32 :=
  Config.decNanSign ++ 0xFF#8 ++ BitVec.ofNat 23 (Config.decNanFractionPred.val + 1)

/-! The consumer's parameters (R8, R91 to R94, D18). No rule of the blocks reads them. -/

/-- `F32_ADD` (R93). -/
opaque Config.f32Add : F32 → F32 → F32

/-- `F32_SUB` (R93). -/
opaque Config.f32Sub : F32 → F32 → F32

/-- `F32_MUL` (R93). -/
opaque Config.f32Mul : F32 → F32 → F32

/-- `F32_DIV` (R93). -/
opaque Config.f32Div : F32 → F32 → F32

/-- `F32_NEG` (R94). -/
opaque Config.f32Neg : F32 → F32

/-- `CONV_INT_TO_F32` (R91). The spec gives the integer no width, so it is any integer (log 9). -/
opaque Config.convIntToF32 : Int → F32

/-- `CONV_F64_TO_F32` (R91). -/
opaque Config.convF64ToF32 : BitVec 64 → F32

/-- `CONV_F32_TO_F64` (R92). -/
opaque Config.convF32ToF64 : F32 → BitVec 64

/-- `CONV_F32_TO_I32` (R92), read only where the consumer does not refuse. -/
opaque Config.convF32ToI32 : F32 → BitVec 32

end Sys2Proof
end

