-- ==== Sys2Proof/Machine/Operands.lean ====
section
/-! DEFINITION. Operand assembly: field extraction and re-assembly only (30_encoding.md R46), and the two arithmetic
steps on a field, re-biasing an exponent and narrowing or widening a fraction. Every field is an unsigned integer. -/

namespace Sys2Proof.Machine

/-! ## Float32 (R35 to R37) -/

/-- `s = f32_in[31]`. -/
def f32Sign (x : F32) : BitVec 1 := x.extractLsb' 31 1

/-- `e = f32_in[30:23]`. -/
def f32Exp (x : F32) : BitVec 8 := x.extractLsb' 23 8

/-- `f = f32_in[22:0]`. -/
def f32Frac (x : F32) : BitVec 23 := x.extractLsb' 0 23

/-- `{s, e, f}`. -/
def packF32 (s : BitVec 1) (e : BitVec 8) (f : BitVec 23) : F32 := s ++ e ++ f

/-! ## Packed16 (R39 to R41) -/

/-- `s = f16_in[15]`. -/
def f16Sign (x : F16) : BitVec 1 := x.extractLsb' 15 1

/-- `E = f16_in[14:10]`. -/
def f16Exp (x : F16) : BitVec 5 := x.extractLsb' 10 5

/-- `F = f16_in[9:0]`. -/
def f16Frac (x : F16) : BitVec 10 := x.extractLsb' 0 10

/-- `{s, E, F}` (R51). -/
def packF16 (s : BitVec 1) (E : BitVec 5) (F : BitVec 10) : F16 := s ++ E ++ F

/-! ## Arithmetic on a field -/

/-- `clamp(i, lo, hi)` on mathematical integers (00_scope.md R10). -/
def clamp (i lo hi : Int) : Int := if i < lo then lo else if hi < i then hi else i

/-- The encoder's re-biased exponent, `clamp(int(e) - 127 + 15, 0, 31)`; no intermediate wraps (R58, D6). -/
def rebiasToF16 (e : BitVec 8) : BitVec 5 := BitVec.ofInt 5 (clamp ((e.toNat : Int) - 127 + 15) 0 31)

/-- The decoder's re-biased exponent, `(int(E) - 15 + 127) & 0xFF` (R78): the low eight bits of the integer. -/
def rebiasToF32 (E : BitVec 5) : BitVec 8 := BitVec.ofInt 8 ((E.toNat : Int) - 15 + 127)

/-- `F = f >> 13`, ten bits of it: truncation, no rounding (R59, R60). -/
def narrowFrac (f : BitVec 23) : BitVec 10 := (f >>> 13).setWidth 10

/-- `zext_23(F) << 13` (R79). -/
def widenFrac (F : BitVec 10) : BitVec 23 := F.setWidth 23 <<< 13

end Sys2Proof.Machine
end

