-- ==== Sys2Proof/Machine/Flags.lean ====
section
/-! DEFINITION. The blocks have no flags and no condition codes (10_state.md R18): nothing here is stored. What they do
test is the class of their input, five cases each (40_encoder.md R52, 41_decoder.md R72), and these tests are here. -/

namespace Sys2Proof.Machine

/-- The five cases of an input, in the order they are tested (R52, R72; 90_conflicts.md C1). -/
inductive FloatClass where
  | infinity
  | nan
  | zero
  | subnormal
  | normal
  deriving DecidableEq, Repr

/-- The encoder's cases (R52). -/
def f32Class (x : F32) : FloatClass :=
  if f32Exp x = 255#8 ∧ f32Frac x = 0#23 then .infinity
  else if f32Exp x = 255#8 then .nan
  else if f32Exp x = 0#8 ∧ f32Frac x = 0#23 then .zero
  else if f32Exp x = 0#8 then .subnormal
  else .normal

/-- The decoder's cases (R72). -/
def f16Class (x : F16) : FloatClass :=
  if f16Exp x = 31#5 ∧ f16Frac x = 0#10 then .infinity
  else if f16Exp x = 31#5 then .nan
  else if f16Exp x = 0#5 ∧ f16Frac x = 0#10 then .zero
  else if f16Exp x = 0#5 then .subnormal
  else .normal

end Sys2Proof.Machine
end

