-- ==== Sys2Proof/Machine/Blocks.lean ====
section
/-! DEFINITION. The functions of the two combinational blocks (10_state.md R13, R21): `half_float_encoder` and
`half_float_decoder`, case by case as 40_encoder.md R50 and 41_decoder.md R70 write them. -/

namespace Sys2Proof.Machine

/-- `f16_out` of `half_float_encoder` as a function of `f32_in` (R50). -/
def f32ToF16 (x : F32) : F16 :=
  match f32Class x with
  | .infinity => packF16 (f32Sign x) 31#5 0#10                                        -- R53
  | .nan => packF16 (f32Sign x) 31#5 (narrowFrac (f32Frac x))                         -- R54
  | .zero => packF16 (f32Sign x) 0#5 0#10                                             -- R55
  | .subnormal => packF16 (f32Sign x) 0#5 (narrowFrac (f32Frac x))                    -- R56
  | .normal => packF16 (f32Sign x) (rebiasToF16 (f32Exp x)) (narrowFrac (f32Frac x))  -- R57 to R59

/-- `f32_out` of `half_float_decoder` as a function of `f16_in` and of the elaboration parameter `DEC_NAN` (R70). -/
def f16ToF32 (decNan : F32) (x : F16) : F32 :=
  match f16Class x with
  | .infinity => packF32 (f16Sign x) 0xFF#8 0#23                                           -- R73
  | .nan => decNan                                                                         -- R74
  | .zero => 0#32                                                                          -- R75
  | .subnormal => 0#32                                                                     -- R76
  | .normal => packF32 (f16Sign x) (rebiasToF32 (f16Exp x)) (widenFrac (f16Frac x))        -- R77 to R80

end Sys2Proof.Machine
end

