-- ==== Sys2Proof/Syntax.lean ====
section
/-! DEFINITION. The operations, one constructor per row of spec/opcode_table.json (30_encoding.md R45, R49). -/

namespace Sys2Proof

/-- The two block operations (R45) and the two harness-only ones (R49). Operands stand in the order of the spec's
syntax: the destination `D` first. -/
inductive Instr where
  /-- `F32TOF16 hD, wS`: drive `f32_in` with `wS`, then `hD <- f16_out`. -/
  | f32tof16 (d s : WireIx)
  /-- `F16TOF32 wD, hS`: drive `f16_in` with `hS`, then `wD <- f32_out`. -/
  | f16tof32 (d s : WireIx)
  /-- `LI32 wD, imm32`: harness only, `wD <- imm32`. -/
  | li32 (d : WireIx) (imm : BitVec 32)
  /-- `LI16 hD, imm16`: harness only, `hD <- imm16`. -/
  | li16 (d : WireIx) (imm : BitVec 16)
  deriving DecidableEq, Repr

end Sys2Proof
end

