-- ==== Sys2Proof/WellFormed.lean ====
section
/-! DEFINITION. Well-formed instructions. Every operand of `Instr` carries its bound in its type, so the only way an
instruction can be ill formed is to read a harness wire that nothing has written before it (70_reset_and_hazards.md
R122, 92_eei_decisions.md D17). That depends on what stands before the instruction, so the check takes the set of the
wires written so far. -/

namespace Sys2Proof

/-- Which harness wires have been written. -/
structure Written where
  /-- `w[i]`: has `w`i been written? -/
  w : Vector Bool 8
  /-- `h[i]`: has `h`i been written? -/
  h : Vector Bool 8
  deriving DecidableEq, Repr

/-- No wire written: where every program of the spec starts (95_test_vectors.md section 5). -/
def Written.none : Written := ⟨Vector.replicate 8 false, Vector.replicate 8 false⟩

/-- The check: the wire the instruction reads is among those written. -/
def Instr.wellFormed (c : Written) : Instr → Bool
  | .f32tof16 _ s => c.w[s]
  | .f16tof32 _ s => c.h[s]
  | .li32 _ _ => true
  | .li16 _ _ => true

/-- The wires written once the instruction has run. -/
def Instr.marks (c : Written) : Instr → Written
  | .f32tof16 d _ => { c with h := c.h.set d true }
  | .f16tof32 d _ => { c with w := c.w.set d true }
  | .li32 d _ => { c with w := c.w.set d true }
  | .li16 d _ => { c with h := c.h.set d true }

/-- A straight-line program (10_state.md R16) is well formed after `c` if each instruction is, after those before it. -/
def wellFormedAfter (c : Written) : List Instr → Bool
  | [] => true
  | i :: is => i.wellFormed c && wellFormedAfter (i.marks c) is

/-- A program that starts with every wire unwritten, as the spec's do. -/
def wellFormedProgram (is : List Instr) : Bool := wellFormedAfter Written.none is

end Sys2Proof
end

