-- ==== Sys2Proof/Decode.lean ====
section
/-! DEFINITION. Harness words to instructions and back (30_encoding.md R45, R49; spec/opcode_table.json). -/

namespace Sys2Proof

/-- Why a list of harness words starts with no instruction. -/
inductive WordRefusal where
  /-- There is no word. -/
  | noWord
  /-- R49: the word has a nonzero bit in 7–0. -/
  | lowBitsSet (w : HWord)
  /-- R49: an LI32 or LI16 word with nonzero S. -/
  | liSourceSet (w : HWord)
  /-- The LI32 or LI16 word is not followed by its immediate words (log 6). -/
  | immediateMissing (w : HWord)
  deriving DecidableEq, Repr

/-! ## The fields of a harness word (R49) -/

/-- `word[15:14]`. -/
def wordKind (w : HWord) : BitVec 2 := w.extractLsb' 14 2

/-- `word[13:11]`. -/
def wordD (w : HWord) : WireIx := (w.extractLsb' 11 3).toFin

/-- `word[10:8]`. -/
def wordS (w : HWord) : WireIx := (w.extractLsb' 8 3).toFin

/-- `word[7:0]`. -/
def wordLow (w : HWord) : BitVec 8 := w.extractLsb' 0 8

/-! ## The decoder -/

/-- `F32TOF16 hD, wS`. -/
def decodeF32tof16 (w : HWord) (rest : List HWord) : Except WordRefusal (Instr × List HWord) :=
  .ok (.f32tof16 (wordD w) (wordS w), rest)

/-- `F16TOF32 wD, hS`. -/
def decodeF16tof32 (w : HWord) (rest : List HWord) : Except WordRefusal (Instr × List HWord) :=
  .ok (.f16tof32 (wordD w) (wordS w), rest)

/-- `LI32 wD, imm32`: the next word is `imm32[31:16]`, the word after it `imm32[15:0]`. -/
def decodeLi32 (w : HWord) : List HWord → Except WordRefusal (Instr × List HWord)
  | hi :: lo :: rest => if wordS w = 0 then .ok (.li32 (wordD w) (hi ++ lo), rest) else .error (.liSourceSet w)
  | _ => if wordS w = 0 then .error (.immediateMissing w) else .error (.liSourceSet w)

/-- `LI16 hD, imm16`: the next word is `imm16`. -/
def decodeLi16 (w : HWord) : List HWord → Except WordRefusal (Instr × List HWord)
  | imm :: rest => if wordS w = 0 then .ok (.li16 (wordD w) imm, rest) else .error (.liSourceSet w)
  | [] => if wordS w = 0 then .error (.immediateMissing w) else .error (.liSourceSet w)

/-- The instruction at the front of a list of harness words and the words after it, or why there is none (R49). A word
wrong in several ways is refused for the first of: its low bits, its S, its missing immediate (log 7). -/
def decode : List HWord → Except WordRefusal (Instr × List HWord)
  | [] => .error .noWord
  | w :: rest =>
    if wordLow w ≠ 0 then .error (.lowBitsSet w)
    else if wordKind w = 0b00#2 then decodeF32tof16 w rest
    else if wordKind w = 0b01#2 then decodeF16tof32 w rest
    else if wordKind w = 0b10#2 then decodeLi32 w rest
    else decodeLi16 w rest

/-! ## The encoder -/

/-- A harness word of its kind, D and S (R49). -/
def harnessWord (kind : BitVec 2) (d s : WireIx) : HWord :=
  kind ++ (BitVec.ofFin d : BitVec 3) ++ (BitVec.ofFin s : BitVec 3) ++ 0#8

/-- The words of an instruction, in the order they are written (R49). -/
def encode : Instr → List HWord
  | .f32tof16 d s => [harnessWord 0b00#2 d s]
  | .f16tof32 d s => [harnessWord 0b01#2 d s]
  | .li32 d imm => [harnessWord 0b10#2 d 0, imm.extractLsb' 16 16, imm.extractLsb' 0 16]
  | .li16 d imm => [harnessWord 0b11#2 d 0, imm]

/-- The words of a straight-line program. -/
def encodeAll : List Instr → List HWord
  | [] => []
  | i :: is => encode i ++ encodeAll is

/-- How many words an instruction has (`length_words` of its row). -/
def Instr.lengthWords : Instr → Nat
  | .f32tof16 _ _ => 1
  | .f16tof32 _ _ => 1
  | .li32 _ _ => 3
  | .li16 _ _ => 2

/-- The op id (R45): the 1-bit tag of the two block operations; the harness-only ones have none. -/
def Instr.opId : Instr → Option (BitVec 1)
  | .f32tof16 _ _ => some 0
  | .f16tof32 _ _ => some 1
  | .li32 _ _ => none
  | .li16 _ _ => none

/-! ## The opcode table -/

/-- A row of spec/opcode_table.json: a word is the row's when its bits under `mask` are `pattern`. -/
structure OpcodeRow where
  mnemonic : String
  pattern : HWord
  mask : HWord
  lengthWords : Nat
  deriving DecidableEq, Repr

/-- The row of each instruction, its numbers copied from the table. -/
def Instr.row : Instr → OpcodeRow
  | .f32tof16 _ _ => ⟨"F32TOF16", 0x0000#16, 0xC0FF#16, 1⟩
  | .f16tof32 _ _ => ⟨"F16TOF32", 0x4000#16, 0xC0FF#16, 1⟩
  | .li32 _ _ => ⟨"LI32", 0x8000#16, 0xC7FF#16, 3⟩
  | .li16 _ _ => ⟨"LI16", 0xC000#16, 0xC7FF#16, 2⟩

/-- The whole table. -/
def opcodeTable : List OpcodeRow :=
  [(Instr.f32tof16 0 0).row, (Instr.f16tof32 0 0).row, (Instr.li32 0 0).row, (Instr.li16 0 0).row]

/-- Is the word one of the row's? -/
def OpcodeRow.covers (r : OpcodeRow) (w : HWord) : Bool := w &&& r.mask == r.pattern

/-! ## The written form of an instruction (R49, "syntax") -/

/-- One hexadecimal digit, as the spec's programs write it. -/
def hexDigit (v : BitVec 4) : Char :=
  if v.toNat < 10 then Char.ofNat (48 + v.toNat) else Char.ofNat (55 + v.toNat)

/-- The last `n` hexadecimal digits of a word, the most significant first. -/
def hexDigits (v : BitVec 32) : Nat → List Char
  | 0 => []
  | n + 1 => hexDigit (v.extractLsb' (4 * n) 4) :: hexDigits v n

/-- A harness wire's name: its letter and its number. -/
def wireName (letter : Char) (n : WireIx) : List Char := [letter, Char.ofNat (48 + n.val)]

/-- The instruction as the spec's programs write it (R49), one character a list entry. -/
def Instr.assembly : Instr → List Char
  | .f32tof16 d s => "F32TOF16 ".toList ++ wireName 'h' d ++ ", ".toList ++ wireName 'w' s
  | .f16tof32 d s => "F16TOF32 ".toList ++ wireName 'w' d ++ ", ".toList ++ wireName 'h' s
  | .li32 d imm => "LI32 ".toList ++ wireName 'w' d ++ ", 0x".toList ++ hexDigits imm 8
  | .li16 d imm => "LI16 ".toList ++ wireName 'h' d ++ ", 0x".toList ++ hexDigits (imm.setWidth 32) 4

/-! ## Words given as one number, as spec/opcode_table.json numbers the bits -/

/-- The three harness words of a number: bit 0 is the least significant bit of the first word, a later word's bits
count on from it, and every bit from `nbits` on is zero. Three words is the longest instruction. -/
def tableWords (nbits w : Nat) : List HWord :=
  let v := w % 2 ^ nbits
  [BitVec.ofNat 16 v, BitVec.ofNat 16 (v / 2 ^ 16), BitVec.ofNat 16 (v / 2 ^ 32)]

/-- The instruction the decoder reads from such a number, or none. -/
def decodeTableWord (nbits w : Nat) : Option Instr :=
  match decode (tableWords nbits w) with
  | .ok (i, _) => some i
  | .error _ => none

/-- The words of such a number that its instruction takes; all of them where it holds no instruction. -/
def tableInstrWords (nbits w : Nat) : List HWord :=
  match decode (tableWords nbits w) with
  | .ok (i, _) => (tableWords nbits w).take i.lengthWords
  | .error _ => tableWords nbits w

end Sys2Proof
end

