-- ==== Sys2Proof/Machine/State.lean ====
section
/-! DEFINITION. The state of the machine, and why a step can stop. The blocks hold no state (10_state.md R16 to R21);
what is held here is the harness's (30_encoding.md R49) and what the environment drives (R13 to R15). -/

namespace Sys2Proof.Machine

/-- The faults: none, so no constructor. "Neither block raises any exception, synchronous or otherwise, for any input"
(60_exceptions.md R100). -/
inductive Fault where
  deriving DecidableEq, Repr

/-- Why a step has no next state. Each is safe: it claims nothing of the hardware. -/
inductive Refusal where
  /-- An instruction that has no meaning in this model. Raised by an arm of `exec`; no arm raises it now. Safe. -/
  | notModelled (mnemonic : String)
  /-- A read of the harness wire `w`n, which nothing has written (R122, D17). Raised by `State.readW`. Safe. -/
  | unwrittenW (n : WireIx)
  /-- A read of the harness wire `h`n, which nothing has written (R122, D17). Raised by `State.readH`. Safe. -/
  | unwrittenH (n : WireIx)
  /-- An evaluation of the encoder while `f32_in` is not a definite bit pattern (R22, D4). Raised by
  `State.sampleF16Out`. Safe. -/
  | undrivenF32In
  /-- An evaluation of the decoder while `f16_in` is not a definite bit pattern (R22, D4). Raised by
  `State.sampleF32Out`. Safe. -/
  | undrivenF16In
  /-- The pending words do not start with a harness instruction (R49). Raised by `State.fetch`. Safe. -/
  | notAnInstruction (why : WordRefusal)
  /-- No operation is left: the run has ended (R122). Raised by `State.fetch`. Safe (log 5). -/
  | endOfRun
  deriving DecidableEq, Repr

/-- The state: the harness's wires, the input ports, and the harness's program. An output port is no field: it is a
function of its block's input port at every instant (R21), see `State.sampleF16Out` and `State.sampleF32Out`. -/
structure State where
  /-- The 32-bit wires `w0`..`w7` (R49); `none` is the spec's "unwritten" (R122; log 1). -/
  w : Vector (Option F32) 8
  /-- The 16-bit wires `h0`..`h7` (R49); `none` is the spec's "unwritten" (R122; log 1). -/
  h : Vector (Option F16) 8
  /-- `f32_in`, the encoder's input port (R14); `none` is an input that is not definite (R22; logs 2, 8). -/
  f32In : Option F32
  /-- `f16_in`, the decoder's input port (R15); `none` is an input that is not definite (R22; logs 2, 8). -/
  f16In : Option F16
  /-- The harness words not run yet, in written order (R16, R49; log 4). -/
  pending : List HWord
  deriving DecidableEq, Repr

/-- The start: every wire unwritten (95_test_vectors.md section 5), no port driven (R116), no program loaded (log 4).
The blocks themselves have nothing to reset (R24, R115). -/
def State.reset : State where
  w := Vector.replicate 8 none
  h := Vector.replicate 8 none
  f32In := none
  f16In := none
  pending := []

/-- What a step answers. -/
abbrev Result := Host.Outcome State Fault Refusal

end Sys2Proof.Machine
end

