-- ==== Sys2Proof/Machine/Ops.lean ====
section
/-! DEFINITION. The named operations over the state: the harness's wires, the ports, the fetch. There is no memory, no
exception entry and no return from one to name here (20_memory.md R25, 60_exceptions.md R100, R106, R107). -/

namespace Sys2Proof.Machine

/-! ## Wires (R49, R122) -/

/-- Read `w`n; refused while it is unwritten (R122). -/
def State.readW (s : State) (n : WireIx) : Except Refusal F32 :=
  match s.w[n] with
  | some v => .ok v
  | none => .error (.unwrittenW n)

/-- Read `h`n; refused while it is unwritten (R122). -/
def State.readH (s : State) (n : WireIx) : Except Refusal F16 :=
  match s.h[n] with
  | some v => .ok v
  | none => .error (.unwrittenH n)

/-- `w`n `<- v`. -/
def State.writeW (s : State) (n : WireIx) (v : F32) : State := { s with w := s.w.set n (some v) }

/-- `h`n `<- v`. -/
def State.writeH (s : State) (n : WireIx) (v : F16) : State := { s with h := s.h.set n (some v) }

/-! ## Ports (R14, R15, R21, R22) -/

/-- Drive `f32_in`. The port carries the value until it is driven again (log 2). -/
def State.driveF32In (s : State) (v : F32) : State := { s with f32In := some v }

/-- Drive `f16_in`. The port carries the value until it is driven again (log 2). -/
def State.driveF16In (s : State) (v : F16) : State := { s with f16In := some v }

/-- The value on `f16_out`: a function of the present value of `f32_in` only (R21); refused while that is not a
definite bit pattern (R22, R116). -/
def State.sampleF16Out (s : State) : Except Refusal F16 :=
  match s.f32In with
  | some x => .ok (f32ToF16 x)
  | none => .error .undrivenF32In

/-- The value on `f32_out`: a function of the present value of `f16_in` only, and of `DEC_NAN` (R21); refused while
that is not a definite bit pattern (R22, R116). -/
def State.sampleF32Out (s : State) : Except Refusal F32 :=
  match s.f16In with
  | some x => .ok (f16ToF32 Config.decNan x)
  | none => .error .undrivenF16In

/-! ## Fetch (R16, R49, R122) -/

/-- Take the next instruction off the pending words. -/
def State.fetch (s : State) : Except Refusal (Instr × State) :=
  match decode s.pending with
  | .ok (i, rest) => .ok (i, { s with pending := rest })
  | .error .noWord => .error .endOfRun
  | .error why => .error (.notAnInstruction why)

/-- Put the words of one instruction, given as a number, where the next fetch takes them: before the pending words
(log 4). -/
def State.insertTableWord (s : State) (nbits w : Nat) : State :=
  { s with pending := tableInstrWords nbits w ++ s.pending }

end Sys2Proof.Machine
end

