-- ==== Sys2Proof/Machine/Decoder.lean ====
section
/-! DEFINITION. The operation of `half_float_decoder` (41_decoder.md R70; 30_encoding.md R49). -/

namespace Sys2Proof.Machine

/-- `F16TOF32 wD, hS`: drive `f16_in` with `hS`, then `wD <- f32_out` (R49). No flag, no exception (R81). -/
def execF16tof32 (d src : WireIx) (s : State) : Result :=
  match s.readH src with
  | .error r => .refused r
  | .ok x =>
    match (s.driveF16In x).sampleF32Out with
    | .error r => .refused r
    | .ok y => .next ((s.driveF16In x).writeW d y)

end Sys2Proof.Machine
end

