-- ==== Sys2Proof/Machine/Encoder.lean ====
section
/-! DEFINITION. The operation of `half_float_encoder` (40_encoder.md R50; 30_encoding.md R49). -/

namespace Sys2Proof.Machine

/-- `F32TOF16 hD, wS`: drive `f32_in` with `wS`, then `hD <- f16_out` (R49). No flag, no exception (R65). -/
def execF32tof16 (d src : WireIx) (s : State) : Result :=
  match s.readW src with
  | .error r => .refused r
  | .ok x =>
    match (s.driveF32In x).sampleF16Out with
    | .error r => .refused r
    | .ok y => .next ((s.driveF32In x).writeH d y)

end Sys2Proof.Machine
end

