-- ==== Sys2Proof/Machine/Harness.lean ====
section
/-! DEFINITION. The harness-only operations (30_encoding.md R49): they touch no port of either block. -/

namespace Sys2Proof.Machine

/-- `LI32 wD, imm32`: `wD <- imm32`. -/
def execLi32 (d : WireIx) (imm : BitVec 32) (s : State) : Result := .next (s.writeW d imm)

/-- `LI16 hD, imm16`: `hD <- imm16`. -/
def execLi16 (d : WireIx) (imm : BitVec 16) (s : State) : Result := .next (s.writeH d imm)

end Sys2Proof.Machine
end

