-- ==== Sys2Proof/Machine/Dispatch.lean ====
section
/-! DEFINITION. One arm per instruction. -/

namespace Sys2Proof.Machine

def exec (i : Instr) (s : State) : Host.Outcome State Fault Refusal :=
  match i with
  | .f32tof16 d src => Sys2Proof.Machine.execF32tof16 d src s
  | .f16tof32 d src => Sys2Proof.Machine.execF16tof32 d src s
  | .li32 d imm => Sys2Proof.Machine.execLi32 d imm s
  | .li16 d imm => Sys2Proof.Machine.execLi16 d imm s

end Sys2Proof.Machine
end

