-- ==== Sys2Proof/Machine/Step.lean ====
section
/-! DEFINITION. One step: the next harness operation, in written order (10_state.md R16). -/

namespace Sys2Proof.Machine

/-- Fetch, then execute. -/
def step (s : State) : Host.Outcome State Fault Refusal :=
  match s.fetch with
  | .ok (i, s') => exec i s'
  | .error r => .refused r

/-- The state with one instruction, given as a number (bit 0 the least significant of its first word), put where the
next step fetches (log 4). -/
def State.withFetchWord (s : State) (nbits w : Nat) : State := s.insertTableWord nbits w

end Sys2Proof.Machine
end

