-- ==== Sys2Proof/Machine/Value.lean ====
section
/-! DEFINITION. The number a bit pattern stands for (30_encoding.md R38, R44). No rule of the blocks reads it: both blocks
act on the bits alone (R38). It serves the consumer's refusals and the statements about values (log 10). -/

namespace Sys2Proof.Machine

/-- A number, an infinity of a sign, or not a number. Both zeros are the number 0. -/
inductive NumValue where
  | finite (q : ℚ)
  | infinite (negative : Bool)
  | notANumber
  deriving DecidableEq, Repr

/-- `(-1)^s`. -/
def signFactor (s : BitVec 1) : ℚ := if s = 1#1 then -1 else 1

/-- The value of a Float32 pattern (R38, the IEEE-754 binary32 one). -/
def f32Value (x : F32) : NumValue :=
  if f32Exp x = 255#8 then
    if f32Frac x = 0#23 then .infinite (f32Sign x == 1#1) else .notANumber
  else if f32Exp x = 0#8 then
    .finite (signFactor (f32Sign x) * (2 : ℚ) ^ (-126 : Int) * ((f32Frac x).toNat / 2 ^ 23))
  else
    .finite (signFactor (f32Sign x) * (2 : ℚ) ^ (((f32Exp x).toNat : Int) - 127) * (1 + (f32Frac x).toNat / 2 ^ 23))

/-- The value of a Packed16 pattern in this hardware (R44): every pattern with `E = 0` is +0. -/
def f16Value (x : F16) : NumValue :=
  match f16Class x with
  | .infinity => .infinite (f16Sign x == 1#1)
  | .nan => .notANumber
  | .zero => .finite 0
  | .subnormal => .finite 0
  | .normal =>
    .finite (signFactor (f16Sign x) * (2 : ℚ) ^ (((f16Exp x).toNat : Int) - 15) * (1 + (f16Frac x).toNat / 2 ^ 10))

end Sys2Proof.Machine
end

