-- ==== Sys2Proof/Machine/Consumer.lean ====
section
/-! DEFINITION. The consumer's contract (45_consumer_contract.md R90 to R97; 60_exceptions.md R103; 20_memory.md R27).
This is surrounding software, outside the machine (00_scope.md R5): no instruction of the table runs it, and it is
written as functions over the two blocks and over the consumer's own open parameters (log 9). -/

namespace Sys2Proof.Machine

/-- A half float: its 16 bits and nothing else (R42, R90). -/
structure Half where
  bits : F16
  deriving DecidableEq, Repr

/-- The only default pattern, +0 (R90). -/
def Half.default : Half := ⟨0x0000#16⟩

/-! ## Construction (R91) -/

def Half.fromF32 (x : F32) : Half := ⟨f32ToF16 x⟩
def Half.fromInt (i : Int) : Half := ⟨f32ToF16 (Config.convIntToF32 i)⟩
def Half.fromF64 (d : BitVec 64) : Half := ⟨f32ToF16 (Config.convF64ToF32 d)⟩

/-! ## Conversion out (R92) -/

def Half.toF32 (a : Half) : F32 := f16ToF32 Config.decNan a.bits
def Half.toF64 (a : Half) : BitVec 64 := Config.convF32ToF64 a.toF32

/-- Why a consumer refuses the conversion to an integer (R92). -/
inductive IntRefusal where
  | ofInfinity
  | ofNan
  | outOfRange
  deriving DecidableEq, Repr

/-- The conversion to a 32-bit integer, refused on an infinity, on `DEC_NAN`, and on a value outside the integer's
range, which is taken as that of a signed integer (R92; log 9). -/
def Half.toInt (a : Half) : Except IntRefusal (BitVec 32) :=
  match f32Value a.toF32 with
  | .infinite _ => .error .ofInfinity
  | .notANumber => .error .ofNan
  | .finite q => if q < -2 ^ 31 ∨ 2 ^ 31 - 1 < q then .error .outOfRange else .ok (Config.convF32ToI32 a.toF32)

/-! ## Arithmetic: decode, compute, encode (R93, R94) -/

/-- The route every binary operator takes (R93). -/
def Half.routed (op : F32 → F32 → F32) (a b : Half) : Half := .fromF32 (op a.toF32 b.toF32)

def Half.add (a b : Half) : Half := Half.routed Config.f32Add a b
def Half.sub (a b : Half) : Half := Half.routed Config.f32Sub a b
def Half.mul (a b : Half) : Half := Half.routed Config.f32Mul a b
def Half.div (a b : Half) : Half := Half.routed Config.f32Div a b

/-- Unary minus, by the same route (R94). -/
def Half.neg (a : Half) : Half := .fromF32 (Config.f32Neg a.toF32)

/-! ## Equality of the raw bits (R95, R96) -/

def Half.equal (a b : Half) : Bool := a.bits == b.bits
def Half.unequal (a b : Half) : Bool := !(Half.equal a b)

/-! ## Detection of loss, the host's task (R103) -/

/-- Does a Float32 come back bit for bit from encode and decode? -/
def roundTrips (decNan x : F32) : Bool := f16ToF32 decNan (f32ToF16 x) == x

/-! ## Serialization, the consumer's too (R27, R43; log 11) -/

/-- `SER_BYTE_ORDER`: which byte of a Packed16 comes first. -/
inductive ByteOrder where
  | leastSignificantFirst
  | mostSignificantFirst
  deriving DecidableEq, Repr

/-- A Packed16 as two bytes, in the order the serializing system chooses. -/
def serializeF16 (o : ByteOrder) (x : F16) : List (BitVec 8) :=
  match o with
  | .leastSignificantFirst => [x.extractLsb' 0 8, x.extractLsb' 8 8]
  | .mostSignificantFirst => [x.extractLsb' 8 8, x.extractLsb' 0 8]

/-- Two bytes as a Packed16, in the order the serializing system chooses. -/
def deserializeF16 (o : ByteOrder) : List (BitVec 8) → Option F16
  | [a, b] =>
    match o with
    | .leastSignificantFirst => some (b ++ a)
    | .mostSignificantFirst => some (a ++ b)
  | _ => none

end Sys2Proof.Machine
end

