-- ==== Sys2Proof/Safety.lean ====
section
/-! DEFINITION. The terms statements use: what it is for an instruction to give a result, for a state to be safe to run,
and which Float32 patterns `DEC_NAN` may be. -/

namespace Sys2Proof.Safety

open Sys2Proof.Machine

/-- `F32TOF16 hD, wS`, run wherever `wS` holds `x`, completes, writes `y` to `hD`, and changes no other wire, not the
decoder's port and not what is still to run. What the encoder's own port carries afterwards is left unsaid. -/
def Encodes (x : F32) (y : F16) : Prop :=
  ∀ (d src : WireIx) (s : State), s.w[src] = some x →
    ∃ t, exec (.f32tof16 d src) s = .next t ∧
      t.h = s.h.set d (some y) ∧ t.w = s.w ∧ t.f16In = s.f16In ∧ t.pending = s.pending

/-- `F16TOF32 wD, hS`, run wherever `hS` holds `x`, completes, writes `y` to `wD`, and changes no other wire, not the
encoder's port and not what is still to run. What the decoder's own port carries afterwards is left unsaid. -/
def Decodes (x : F16) (y : F32) : Prop :=
  ∀ (d src : WireIx) (s : State), s.h[src] = some x →
    ∃ t, exec (.f16tof32 d src) s = .next t ∧
      t.w = s.w.set d (some y) ∧ t.h = s.h ∧ t.f32In = s.f32In ∧ t.pending = s.pending

/-- What R7 asks of `DEC_NAN`: a Float32 NaN. -/
def AdmissibleNan (v : F32) : Prop := v.extractLsb' 23 8 = 0xFF#8 ∧ v.extractLsb' 0 23 ≠ 0#23

/-- The wires a state holds a value on. -/
def writtenOf (s : State) : Written :=
  ⟨Vector.ofFn fun n : WireIx => s.w[n].isSome, Vector.ofFn fun n : WireIx => s.h[n].isSome⟩

/-- The pending words are a straight-line program, and each of its instructions reads only wires that are written by
then. A state that is `Loaded` runs to its end without a refusal. -/
def Loaded (s : State) : Prop :=
  ∃ is : List Instr, s.pending = encodeAll is ∧ wellFormedAfter (writtenOf s) is = true

end Sys2Proof.Safety
end

