-- ==== Sys2Proof/Certificates/Slice0/Obligations.lean ====
section
/-! DEFINITION. The statements for the provers. A bit field is written out as the spec numbers it: `x.extractLsb' i n`
is `x[i+n-1:i]`. `Encodes x y` and `Decodes x y` (Sys2Proof/Safety.lean) say that `F32TOF16` and `F16TOF32` complete on
`x` wherever it is read, give `y`, and touch nothing else. -/

open Sys2Proof Sys2Proof.Machine Sys2Proof.Safety

/-! ## Encodings (30_encoding.md R45, R49; spec/opcode_table.json) -/

/-- Every instruction, whatever follows it, is read back from its words. -/
def Obligations.DecodingAnEncodedInstructionGivesItBack : Prop :=
  ∀ (i : Instr) (rest : List HWord), decode (encode i ++ rest) = .ok (i, rest)

/-- Words that decode are the words of the instruction they decode to: no two word sequences share a meaning, and no
bit is ignored. -/
def Obligations.DecodedWordsAreTheEncoding : Prop :=
  ∀ (ws rest : List HWord) (i : Instr), decode ws = .ok (i, rest) → ws = encode i ++ rest

/-- Exactly these words start an instruction: bits 7–0 zero, S zero in an LI word, and the immediate words there. The
last clause is the model's (log 6). -/
def Obligations.DecoderAcceptsExactlyTheHarnessWords : Prop :=
  ∀ (w : HWord) (rest : List HWord),
    (∃ r, decode (w :: rest) = .ok r) ↔
      w.extractLsb' 0 8 = 0#8 ∧ (w.extractLsb' 15 1 = 1#1 → w.extractLsb' 8 3 = 0#3) ∧
      (w.extractLsb' 14 2 = 0b10#2 → 2 ≤ rest.length) ∧ (w.extractLsb' 14 2 = 0b11#2 → 1 ≤ rest.length)

/-- A word that decodes is one of its instruction's row of the opcode table, of no other row, and the instruction takes
as many words as the row says. -/
def Obligations.DecoderFollowsTheOpcodeTable : Prop :=
  ∀ (w : HWord) (rest rest' : List HWord) (i : Instr), decode (w :: rest) = .ok (i, rest') →
    i.row ∈ opcodeTable ∧ i.row.covers w = true ∧ (∀ r ∈ opcodeTable, r.covers w = true → r = i.row) ∧
      rest.length + 1 = rest'.length + i.row.lengthWords

/-- Words written out in the spec's programs P1, P2 and P5 stand for the instructions written beside them. -/
def Obligations.WordsOfTheSpecsProgramsDecode : Prop :=
  decode [0x8000#16, 0x3FC0#16, 0x0000#16] = .ok (.li32 0 0x3FC00000#32, []) ∧
  decode [0x9000#16, 0xC049#16, 0x0FD0#16] = .ok (.li32 2 0xC0490FD0#32, []) ∧
  decode [0x0A00#16] = .ok (.f32tof16 1 2, []) ∧
  decode [0x1100#16] = .ok (.f32tof16 2 1, []) ∧
  decode [0x5900#16] = .ok (.f16tof32 3 1, []) ∧
  decode [0x4800#16] = .ok (.f16tof32 1 0, []) ∧
  decode [0xC800#16, 0x7C01#16] = .ok (.li16 1 0x7C01#16, [])

/-- The op id of a block operation is its word's kind. -/
def Obligations.OpIdIsTheWordsKind : Prop :=
  ∀ (i : Instr) (op : BitVec 1), i.opId = some op →
    ∃ w, encode i = [w] ∧ w.extractLsb' 14 2 = op.setWidth 2

/-! ## The step (10_state.md R16; 70_reset_and_hazards.md R122) -/

/-- A step runs the instruction at the front of the pending words, with those words taken off. -/
def Obligations.StepRunsTheDecodedInstruction : Prop :=
  ∀ (s : State) (i : Instr) (rest : List HWord), decode s.pending = .ok (i, rest) →
    step s = exec i { s with pending := rest }

/-- A step stops, by name, where no instruction is left and where the words are not one. The first name is the model's
(log 5). -/
def Obligations.StepStopsWhereThereIsNoInstruction : Prop :=
  ∀ (s : State),
    (s.pending = [] → step s = .refused .endOfRun) ∧
    (∀ e, s.pending ≠ [] → decode s.pending = .error e → step s = .refused (.notAnInstruction e))

/-- An instruction given as a number of the opcode table's is what the next step runs, with nothing else changed (the
model's load, log 4). -/
def Obligations.LoadedTableWordIsRunNext : Prop :=
  ∀ (s : State) (nbits w : Nat) (i : Instr), decodeTableWord nbits w = some i →
    step (s.withFetchWord nbits w) = exec i s

/-! ## F32TOF16 (40_encoder.md) -/

/-- R50, its pseudocode in numbers; its op id; its worked example. -/
def Obligations.EncoderFollowsTheFiveCaseRule : Prop :=
  (∀ x : F32,
    let s : Nat := x.toNat / 2 ^ 31
    let e : Nat := x.toNat / 2 ^ 23 % 2 ^ 8
    let f : Nat := x.toNat % 2 ^ 23
    let EF : Int × Nat :=
      if e = 255 ∧ f = 0 then (31, 0)
      else if e = 255 then (31, f / 2 ^ 13)
      else if e = 0 ∧ f = 0 then (0, 0)
      else if e = 0 then (0, f / 2 ^ 13)
      else (max 0 (min 31 ((e : Int) - 127 + 15)), f / 2 ^ 13)
    Encodes x (BitVec.ofNat 16 (s * 0x8000 + EF.1.toNat * 0x400 + EF.2))) ∧
  Encodes 0x3FC00000#32 0x3E00#16 ∧
  (∀ d s, (Instr.f32tof16 d s).opId = some 0#1)

/-- R53. -/
def Obligations.EncoderGivesSignedInfinity : Prop :=
  (∀ x : F32, x.extractLsb' 23 8 = 255#8 → x.extractLsb' 0 23 = 0#23 →
    Encodes x (x.extractLsb' 31 1 ++ 0b11111#5 ++ 0#10)) ∧
  Encodes 0x7F800000#32 0x7C00#16 ∧ Encodes 0xFF800000#32 0xFC00#16

/-- R54. -/
def Obligations.EncoderTruncatesTheNanPayload : Prop :=
  ∀ x : F32, x.extractLsb' 23 8 = 255#8 → x.extractLsb' 0 23 ≠ 0#23 →
    Encodes x (x.extractLsb' 31 1 ++ 0b11111#5 ++ x.extractLsb' 13 10)

/-- R55. -/
def Obligations.EncoderKeepsTheSignOfZero : Prop :=
  (∀ x : F32, x.extractLsb' 23 8 = 0#8 → x.extractLsb' 0 23 = 0#23 →
    Encodes x (x.extractLsb' 31 1 ++ 0#5 ++ 0#10)) ∧
  Encodes 0x00000000#32 0x0000#16 ∧ Encodes 0x80000000#32 0x8000#16

/-- R56. -/
def Obligations.EncoderTruncatesSubnormals : Prop :=
  ∀ x : F32, x.extractLsb' 23 8 = 0#8 → x.extractLsb' 0 23 ≠ 0#23 →
    Encodes x (x.extractLsb' 31 1 ++ 0#5 ++ x.extractLsb' 13 10) ∧
    ((x.extractLsb' 0 23).toNat < 0x2000 → Encodes x (x.extractLsb' 31 1 ++ 0#5 ++ 0#10))

/-- R57, R58, R59: the three fields of a normal input's result. -/
def Obligations.EncoderRebiasesNormals : Prop :=
  ∀ x : F32, 1 ≤ (x.extractLsb' 23 8).toNat → (x.extractLsb' 23 8).toNat ≤ 254 →
    ∃ y, Encodes x y ∧ y.extractLsb' 15 1 = x.extractLsb' 31 1 ∧
      ((y.extractLsb' 10 5).toNat : Int) = max 0 (min 31 (((x.extractLsb' 23 8).toNat : Int) - 127 + 15)) ∧
      y.extractLsb' 0 10 = x.extractLsb' 13 10

/-- R60: the ten top bits of the fraction are kept in every case, the thirteen low bits never reach the result, and so
carry into nothing. -/
def Obligations.EncoderDiscardsTheLowFractionBits : Prop :=
  ∀ x : F32, ∃ y, Encodes x y ∧ y.extractLsb' 0 10 = x.extractLsb' 13 10 ∧
    ∀ low : BitVec 13, Encodes (x.extractLsb' 13 19 ++ low) y

/-- R61: exponents from 143 on alias to the infinity pattern or to a NaN pattern. -/
def Obligations.EncoderOverflowAliases : Prop :=
  ∀ x : F32, 143 ≤ (x.extractLsb' 23 8).toNat → (x.extractLsb' 23 8).toNat ≤ 254 →
    (x.extractLsb' 13 10 = 0#10 → Encodes x (x.extractLsb' 31 1 ++ 0b11111#5 ++ 0#10)) ∧
    (x.extractLsb' 13 10 ≠ 0#10 → Encodes x (x.extractLsb' 31 1 ++ 0b11111#5 ++ x.extractLsb' 13 10))

/-- R62: exponents up to 112 alias to the signed-zero pattern or to a pseudo-subnormal one. -/
def Obligations.EncoderUnderflowAliases : Prop :=
  ∀ x : F32, 1 ≤ (x.extractLsb' 23 8).toNat → (x.extractLsb' 23 8).toNat ≤ 112 →
    (x.extractLsb' 13 10 = 0#10 → Encodes x (x.extractLsb' 31 1 ++ 0#5 ++ 0#10)) ∧
    (x.extractLsb' 13 10 ≠ 0#10 → Encodes x (x.extractLsb' 31 1 ++ 0#5 ++ x.extractLsb' 13 10))

/-- The single formula that the spec derives from the five cases (40_encoder.md section 3, R63). -/
def Obligations.EncoderIsTheSingleFormula : Prop :=
  ∀ x : F32,
    Encodes x (x.extractLsb' 31 1 ++
      BitVec.ofInt 5 (max 0 (min 31 (((x.extractLsb' 23 8).toNat : Int) - 112))) ++ x.extractLsb' 13 10)

/-- A NaN with no payload bit in 22–13 becomes the infinity pattern (derived by the spec, R64; 90_conflicts.md C2). -/
def Obligations.EncoderTurnsSmallNansIntoInfinity : Prop :=
  ∀ x : F32, x.extractLsb' 23 8 = 255#8 → 1 ≤ (x.extractLsb' 0 23).toNat → (x.extractLsb' 0 23).toNat ≤ 0x1FFF →
    Encodes x (x.extractLsb' 31 1 ++ 0b11111#5 ++ 0#10)

/-- R65: every input gives exactly one output, with no stop and nothing else written. -/
def Obligations.EncoderIsTotalAndPure : Prop := ∀ x : F32, ∃! y : F16, Encodes x y

/-- Every result keeps its input's sign (derived by the spec, R66). -/
def Obligations.EncoderPreservesTheSign : Prop :=
  ∀ (x : F32) (y : F16), Encodes x y → y.extractLsb' 15 1 = x.extractLsb' 31 1

/-- How many inputs each result has (derived by the spec, R67). -/
def Obligations.EncoderPreimagesAreCounted : Prop :=
  ∀ y : F16, Nat.card { x : F32 // Encodes x y } =
    if y.extractLsb' 10 5 = 0#5 ∨ y.extractLsb' 10 5 = 31#5 then 113 * 2 ^ 13 else 2 ^ 13

/-- The exponent map in magnitudes (derived by the spec, R68, from R38's value, which is presumed: log 10). -/
def Obligations.EncoderExponentFollowsTheMagnitude : Prop :=
  ∀ (x : F32) (y : F16) (q : ℚ), Encodes x y → f32Value x = .finite q →
    (y.extractLsb' 10 5 = 0#5 ↔ |q| < (2 : ℚ) ^ (-14 : Int)) ∧
    (y.extractLsb' 10 5 = 31#5 ↔ 2 ^ 16 ≤ |q|)

/-- In the range of the normal results, the result's value is the input's truncated toward zero to ten fraction bits
(derived by the spec, R69, from R38's value, which is presumed: log 10). -/
def Obligations.EncoderTruncatesTowardZero : Prop :=
  ∀ (x : F32) (y : F16) (q r : ℚ),
    113 ≤ (x.extractLsb' 23 8).toNat → (x.extractLsb' 23 8).toNat ≤ 142 → Encodes x y →
    f32Value x = .finite q → f16Value y = .finite r →
    0 < q * r ∧
    |r| = (⌊|q| / (2 : ℚ) ^ (((x.extractLsb' 23 8).toNat : Int) - 137)⌋ : ℚ) *
      (2 : ℚ) ^ (((x.extractLsb' 23 8).toNat : Int) - 137) ∧
    (r = q ↔ x.extractLsb' 0 13 = 0#13) ∧
    (x.extractLsb' 0 13 ≠ 0#13 → |r| < |q|) ∧
    (65504 ≤ q → q < 65536 → y = 0x7BFF#16)

/-! ## F16TOF32 (41_decoder.md) -/

/-- R70, its pseudocode in numbers; its op id; its worked example. -/
def Obligations.DecoderFollowsTheFiveCaseRule : Prop :=
  (∀ x : F16,
    let s : Nat := x.toNat / 2 ^ 15
    let E : Nat := x.toNat / 2 ^ 10 % 2 ^ 5
    let F : Nat := x.toNat % 2 ^ 10
    Decodes x
      (if E = 31 ∧ F = 0 then BitVec.ofNat 32 (s * 2 ^ 31 + 0xFF * 2 ^ 23)
      else if E = 31 then Config.decNan
      else if E = 0 ∧ F = 0 then 0x00000000#32
      else if E = 0 then 0x00000000#32
      else BitVec.ofNat 32 (s * 2 ^ 31 + (((E : Int) - 15 + 127) % 256).toNat * 2 ^ 23 + F * 2 ^ 13))) ∧
  Decodes 0x3E00#16 0x3FC00000#32 ∧
  (∀ d s, (Instr.f16tof32 d s).opId = some 1#1)

/-- R73. -/
def Obligations.DecoderGivesSignedInfinity : Prop :=
  (∀ x : F16, x.extractLsb' 10 5 = 31#5 → x.extractLsb' 0 10 = 0#10 →
    Decodes x (x.extractLsb' 15 1 ++ 0xFF#8 ++ 0#23)) ∧
  Decodes 0x7C00#16 0x7F800000#32 ∧ Decodes 0xFC00#16 0xFF800000#32

/-- R74: one generic NaN for all 2046 NaN patterns, which is a Float32 NaN. -/
def Obligations.DecoderGivesTheOneGenericNan : Prop :=
  (∀ x : F16, x.extractLsb' 10 5 = 31#5 → x.extractLsb' 0 10 ≠ 0#10 → Decodes x Config.decNan) ∧
  Nat.card { x : F16 // x.extractLsb' 10 5 = 31#5 ∧ x.extractLsb' 0 10 ≠ 0#10 } = 2046 ∧
  AdmissibleNan Config.decNan

/-- R75, R76: +0 for every pattern with exponent 0, whatever its sign and fraction. -/
def Obligations.DecoderGivesPlusZero : Prop :=
  (∀ x : F16, x.extractLsb' 10 5 = 0#5 → x.extractLsb' 0 10 = 0#10 → Decodes x 0x00000000#32) ∧
  Decodes 0x0000#16 0x00000000#32 ∧ Decodes 0x8000#16 0x00000000#32 ∧
  (∀ x : F16, x.extractLsb' 10 5 = 0#5 → x.extractLsb' 0 10 ≠ 0#10 → Decodes x 0x00000000#32)

/-- R77 to R80: the fields of a normal input's result, and that the mask never changes the exponent. -/
def Obligations.DecoderRebiasesNormals : Prop :=
  ∀ x : F16, 1 ≤ (x.extractLsb' 10 5).toNat → (x.extractLsb' 10 5).toNat ≤ 30 →
    ∃ y, Decodes x y ∧ y.extractLsb' 31 1 = x.extractLsb' 15 1 ∧
      ((y.extractLsb' 23 8).toNat : Int) = (((x.extractLsb' 10 5).toNat : Int) - 15 + 127) % 256 ∧
      (y.extractLsb' 23 8).toNat = (x.extractLsb' 10 5).toNat + 112 ∧
      113 ≤ (y.extractLsb' 23 8).toNat ∧ (y.extractLsb' 23 8).toNat ≤ 142 ∧
      y.extractLsb' 13 10 = x.extractLsb' 0 10 ∧ y.extractLsb' 0 13 = 0#13 ∧
      y = x.extractLsb' 15 1 ++ BitVec.ofNat 8 ((x.extractLsb' 10 5).toNat + 112) ++ x.extractLsb' 0 10 ++ 0#13

/-- R81: every input gives exactly one output, with no stop and nothing else written. -/
def Obligations.DecoderIsTotalAndPure : Prop := ∀ x : F16, ∃! y : F32, Decodes x y

/-- The outputs of the decoder, all of them, and how many inputs each class has (derived by the spec, R82). -/
def Obligations.DecoderOutputsAreCounted : Prop :=
  (∀ y : F32, (∃ x, Decodes x y) ↔
    y = 0x00000000#32 ∨ y = 0x7F800000#32 ∨ y = 0xFF800000#32 ∨ y = Config.decNan ∨
    (113 ≤ (y.extractLsb' 23 8).toNat ∧ (y.extractLsb' 23 8).toNat ≤ 142 ∧ y.extractLsb' 0 13 = 0#13)) ∧
  Nat.card { x : F16 // Decodes x 0x00000000#32 } = 2048 ∧
  Nat.card { x : F16 // Decodes x 0x7F800000#32 ∨ Decodes x 0xFF800000#32 } = 2 ∧
  Nat.card { x : F16 // Decodes x Config.decNan } = 2046 ∧
  Nat.card { x : F16 // ∃ y, Decodes x y ∧ 113 ≤ (y.extractLsb' 23 8).toNat ∧ (y.extractLsb' 23 8).toNat ≤ 142 } = 61440

/-- Two inputs share an output only if both have exponent 0 or both are NaN patterns (derived by the spec, R87). -/
def Obligations.DecoderIsInjectiveOnNormalsAndInfinities : Prop :=
  ∀ (a b : F16) (y : F32), Decodes a y → Decodes b y →
    a = b ∨ (a.extractLsb' 10 5 = 0#5 ∧ b.extractLsb' 10 5 = 0#5) ∨
    (a.extractLsb' 10 5 = 31#5 ∧ a.extractLsb' 0 10 ≠ 0#10 ∧ b.extractLsb' 10 5 = 31#5 ∧ b.extractLsb' 0 10 ≠ 0#10)

/-- The value of the result is the value of the pattern (derived by the spec, R44, R83, from R38's value, which is
presumed: log 10). -/
def Obligations.DecoderIsExactOnValues : Prop :=
  ∀ (x : F16) (y : F32), Decodes x y → f32Value y = f16Value x

/-! ## Both blocks together -/

/-- Encode after decode (derived by the spec, R84). -/
def Obligations.EncodeAfterDecode : Prop :=
  (∀ (h : F16) (x : F32), Decodes h x →
    ((1 ≤ (h.extractLsb' 10 5).toNat ∧ (h.extractLsb' 10 5).toNat ≤ 30) ∨ h = 0x7C00#16 ∨ h = 0xFC00#16 →
      Encodes x h) ∧
    (h.extractLsb' 10 5 = 0#5 → Encodes x 0x0000#16) ∧
    (h.extractLsb' 10 5 = 31#5 → h.extractLsb' 0 10 ≠ 0#10 → ∀ y, Encodes Config.decNan y → Encodes x y)) ∧
  Encodes 0x7FC00000#32 0x7E00#16

/-- Decode after encode: exactly which inputs come back, and what the others become (derived by the spec, R85;
90_conflicts.md C3, C4). -/
def Obligations.DecodeAfterEncode : Prop :=
  ∀ (x z : F32) (y : F16), Encodes x y → Decodes y z →
    (z = x ↔
      (113 ≤ (x.extractLsb' 23 8).toNat ∧ (x.extractLsb' 23 8).toNat ≤ 142 ∧ x.extractLsb' 0 13 = 0#13) ∨
      x = 0x00000000#32 ∨ x = 0x7F800000#32 ∨ x = 0xFF800000#32 ∨
      (x = Config.decNan ∧ x.extractLsb' 13 10 ≠ 0#10)) ∧
    (113 ≤ (x.extractLsb' 23 8).toNat → (x.extractLsb' 23 8).toNat ≤ 142 → z = x.extractLsb' 13 19 ++ 0#13) ∧
    ((x.extractLsb' 23 8).toNat ≤ 112 → z = 0x00000000#32) ∧
    (143 ≤ (x.extractLsb' 23 8).toNat → x.extractLsb' 13 10 = 0#10 → z = x.extractLsb' 31 1 ++ 0xFF#8 ++ 0#23) ∧
    (143 ≤ (x.extractLsb' 23 8).toNat → x.extractLsb' 13 10 ≠ 0#10 → z = Config.decNan)

/-- Where the decoder drops the sign and where it keeps it (derived by the spec, R86). -/
def Obligations.DecoderDropsTheSignOfZeroAndNan : Prop :=
  (∀ (h : F16) (x : F32), Decodes h x →
    (h.extractLsb' 10 5 = 0#5 → x.extractLsb' 31 1 = 0#1) ∧
    (h.extractLsb' 10 5 = 31#5 → h.extractLsb' 0 10 ≠ 0#10 → x.extractLsb' 31 1 = Config.decNan.extractLsb' 31 1) ∧
    (h.extractLsb' 10 5 ≠ 0#5 → (h.extractLsb' 10 5 = 31#5 → h.extractLsb' 0 10 = 0#10) →
      x.extractLsb' 31 1 = h.extractLsb' 15 1)) ∧
  (∀ y, Encodes 0x80000000#32 y → Decodes y 0x00000000#32)

/-- What an evaluation gives depends on the value of its source only: no earlier input, no other wire, no other block
(10_state.md R21). -/
def Obligations.ResultsDependOnTheSourceOnly : Prop :=
  (∀ (d d' src src' : WireIx) (s s' t t' : State), s.w[src] = s'.w[src'] →
    exec (.f32tof16 d src) s = .next t → exec (.f32tof16 d' src') s' = .next t' → t.h[d] = t'.h[d']) ∧
  (∀ (d d' src src' : WireIx) (s s' t t' : State), s.h[src] = s'.h[src'] →
    exec (.f16tof32 d src) s = .next t → exec (.f16tof32 d' src') s' = .next t' → t.w[d] = t'.w[d'])

/-- Running an instruction a second time changes nothing more (20_memory.md R26, in the harness's terms). -/
def Obligations.EvaluationIsIdempotent : Prop :=
  ∀ (i : Instr) (s t : State), exec i s = .next t → exec i t = .next t

/-- An encoder evaluation and a decoder evaluation, neither reading what the other writes, may be run in either order
(10_state.md R23, 70_reset_and_hazards.md R120, in the harness's terms). -/
def Obligations.EvaluationsOfTheTwoBlocksCommute : Prop :=
  ∀ (d src d' src' : WireIx) (s : State) (x : F32) (y : F16), d ≠ src' → d' ≠ src →
    s.w[src] = some x → s.h[src'] = some y →
    ∃ t t₁ t₂, exec (.f32tof16 d src) s = .next t₁ ∧ exec (.f16tof32 d' src') t₁ = .next t ∧
      exec (.f16tof32 d' src') s = .next t₂ ∧ exec (.f32tof16 d src) t₂ = .next t

/-! ## The harness (30_encoding.md R49; 70_reset_and_hazards.md R122) -/

/-- `LI32` and `LI16` write their immediate to their wire and change nothing else. -/
def Obligations.LoadImmediateWritesItsWire : Prop :=
  (∀ (d : WireIx) (imm : BitVec 32) (s : State),
    exec (.li32 d imm) s = .next { s with w := s.w.set d (some imm) }) ∧
  (∀ (d : WireIx) (imm : BitVec 16) (s : State),
    exec (.li16 d imm) s = .next { s with h := s.h.set d (some imm) })

/-- What an instruction leaves unchanged: every wire but its destination, the other block's port (both ports, for the
loads), and what is still to run. -/
def Obligations.InstructionsChangeOnlyTheirDestination : Prop :=
  (∀ (d src : WireIx) (s t : State), exec (.f32tof16 d src) s = .next t →
    (∀ n : WireIx, n ≠ d → t.h[n] = s.h[n]) ∧ (∀ n : WireIx, t.w[n] = s.w[n]) ∧
      t.f16In = s.f16In ∧ t.pending = s.pending) ∧
  (∀ (d src : WireIx) (s t : State), exec (.f16tof32 d src) s = .next t →
    (∀ n : WireIx, n ≠ d → t.w[n] = s.w[n]) ∧ (∀ n : WireIx, t.h[n] = s.h[n]) ∧
      t.f32In = s.f32In ∧ t.pending = s.pending) ∧
  (∀ (d : WireIx) (imm : BitVec 32) (s t : State), exec (.li32 d imm) s = .next t →
    (∀ n : WireIx, n ≠ d → t.w[n] = s.w[n]) ∧ (∀ n : WireIx, t.h[n] = s.h[n]) ∧
      t.f32In = s.f32In ∧ t.f16In = s.f16In ∧ t.pending = s.pending) ∧
  (∀ (d : WireIx) (imm : BitVec 16) (s t : State), exec (.li16 d imm) s = .next t →
    (∀ n : WireIx, n ≠ d → t.h[n] = s.h[n]) ∧ (∀ n : WireIx, t.w[n] = s.w[n]) ∧
      t.f32In = s.f32In ∧ t.f16In = s.f16In ∧ t.pending = s.pending)

/-- A read of an unwritten wire is refused, under a name of its own. -/
def Obligations.UnwrittenWireReadIsRefused : Prop :=
  (∀ (d src : WireIx) (s : State), s.w[src] = none → exec (.f32tof16 d src) s = .refused (.unwrittenW src)) ∧
  (∀ (d src : WireIx) (s : State), s.h[src] = none → exec (.f16tof32 d src) s = .refused (.unwrittenH src))

/-- An instruction completes exactly where the wire it reads has been written. -/
def Obligations.InstructionCompletesExactlyWhenWellFormed : Prop :=
  ∀ (i : Instr) (s : State), (∃ t, exec i s = .next t) ↔ i.wellFormed (writtenOf s) = true

/-- R22 at the ports: every definite input has an output, an input that is not definite is refused. -/
def Obligations.OnlyDefiniteInputsAreEvaluated : Prop :=
  (∀ (s : State) (x : F32), s.f32In = some x → ∃ y, s.sampleF16Out = .ok y) ∧
  (∀ (s : State) (x : F16), s.f16In = some x → ∃ y, s.sampleF32Out = .ok y) ∧
  (∀ s : State, s.f32In = none → s.sampleF16Out = .error .undrivenF32In) ∧
  (∀ s : State, s.f16In = none → s.sampleF32Out = .error .undrivenF16In)

/-- After an evaluation the input port still carries the value it was driven with (the model's choice, log 2), so the
output port still shows the value that was sampled (10_state.md R21). -/
def Obligations.PortsStayDrivenAfterAnEvaluation : Prop :=
  (∀ (d src : WireIx) (s t : State), exec (.f32tof16 d src) s = .next t →
    t.f32In = s.w[src] ∧ ∃ y, t.sampleF16Out = .ok y ∧ t.h[d] = some y) ∧
  (∀ (d src : WireIx) (s t : State), exec (.f16tof32 d src) s = .next t →
    t.f16In = s.h[src] ∧ ∃ y, t.sampleF32Out = .ok y ∧ t.w[d] = some y)

/-- The start: every wire unwritten (95_test_vectors.md section 5), and, by the model's choice, no port driven (log 2)
and no program loaded (log 4). -/
def Obligations.ResetLeavesEveryWireUnwritten : Prop :=
  (∀ n : WireIx, State.reset.w[n] = none) ∧ (∀ n : WireIx, State.reset.h[n] = none) ∧
  State.reset.f32In = none ∧ State.reset.f16In = none ∧ State.reset.pending = []

/-! ## Runs (10_state.md R16; 70_reset_and_hazards.md R122) -/

/-- Reset meets the invariant. It does so because no word is pending there, which is the model's choice (log 4) and no
rule of the spec. -/
def Obligations.ResetIsLoaded : Prop := Loaded State.reset

/-- Every step keeps it: what is left of a program that reads only written wires is such a program. -/
def Obligations.StepKeepsLoaded : Prop :=
  ∀ s t : State, Loaded s → step s = .next t → Loaded t

/-- A state that meets it is at its end or can go on. -/
def Obligations.LoadedStateCanGoOn : Prop :=
  ∀ s : State, Loaded s → s.pending = [] ∨ ∃ t, step s = .next t

/-- A well-formed straight-line program, from any state it is loaded in, runs in as many steps as it has instructions
to its end, where every wire it names as a destination is written. That the step after the end is refused, as
`endOfRun`, is the model's choice (log 5): R122 gives no further step. -/
def Obligations.WellFormedProgramsRunToTheirEnd : Prop :=
  ∀ (is : List Instr) (s : State), s.pending = encodeAll is → wellFormedAfter (writtenOf s) is = true →
    ∃ t : State, Sys2Proof.core.run is.length s = .next t ∧ t.pending = [] ∧ step t = .refused .endOfRun ∧
      writtenOf t = is.foldl Instr.marks (writtenOf s)

/-- Every run ends: within as many steps as there are pending words, a step is refused. That the end of a run is a
refused step is the model's choice (log 5): R122 gives no further step. -/
def Obligations.EveryRunEnds : Prop :=
  ∀ s : State, ∃ k, k ≤ s.pending.length ∧
    ∃ (t : State) (r : Refusal), Sys2Proof.core.run k s = .next t ∧ step t = .refused r

/-- A wire that has been written stays written. -/
def Obligations.WrittenWiresStayWritten : Prop :=
  ∀ s t : State, step s = .next t →
    (∀ n : WireIx, s.w[n].isSome = true → t.w[n].isSome = true) ∧
    (∀ n : WireIx, s.h[n].isSome = true → t.h[n].isSome = true)

/-! ## The consumer's contract (45_consumer_contract.md) -/

/-- R95, R96: equality and inequality are those of the 16 bits. -/
def Obligations.HalfEqualityIsOfTheRawBits : Prop :=
  (∀ a b : Half, (Half.equal a b = true ↔ a.bits = b.bits) ∧ (Half.unequal a b = true ↔ a.bits ≠ b.bits)) ∧
  Half.unequal ⟨0x0000#16⟩ ⟨0x8000#16⟩ = true ∧ Half.unequal ⟨0x0000#16⟩ ⟨0x0001#16⟩ = true ∧
  Half.unequal ⟨0x8000#16⟩ ⟨0x0001#16⟩ = true ∧
  Decodes 0x0000#16 0x00000000#32 ∧ Decodes 0x8000#16 0x00000000#32 ∧ Decodes 0x0001#16 0x00000000#32 ∧
  (∀ a : Half, a.bits.extractLsb' 10 5 = 31#5 → a.bits.extractLsb' 0 10 ≠ 0#10 → Half.equal a a = true)

/-- R97: inputs that encode to the same bits construct equal half floats. -/
def Obligations.SameEncodingsAreEqualHalves : Prop :=
  (∀ (x x' : F32) (y : F16), Encodes x y → Encodes x' y → Half.equal (Half.fromF32 x) (Half.fromF32 x') = true) ∧
  Half.equal (Half.fromF32 0x3F800000#32) (Half.fromF32 0x3F801FFF#32) = true ∧
  Encodes 0x3F800000#32 0x3C00#16 ∧ Encodes 0x3F801FFF#32 0x3C00#16

/-- R93: each binary operator is decode, compute, encode, by what the two blocks do. -/
def Obligations.HalfArithmeticIsDecodeComputeEncode : Prop :=
  ∀ (a b : Half) (x y : F32) (z : F16), Decodes a.bits x → Decodes b.bits y →
    (Encodes (Config.f32Add x y) z → Half.add a b = ⟨z⟩) ∧
    (Encodes (Config.f32Sub x y) z → Half.sub a b = ⟨z⟩) ∧
    (Encodes (Config.f32Mul x y) z → Half.mul a b = ⟨z⟩) ∧
    (Encodes (Config.f32Div x y) z → Half.div a b = ⟨z⟩)

/-- The conversion to an integer is refused exactly on the infinity and the NaN patterns: no half float is out of a
signed 32-bit integer's range. R92 refuses a value outside "the 32-bit integer range"; that the range is the signed one
is the model's presumption (log 9), and the values are the presumed ones of log 10. -/
def Obligations.HalfToIntegerIsRefusedOnNonNumbersOnly : Prop :=
  ∀ a : Half,
    (a.bits.extractLsb' 10 5 = 31#5 → a.bits.extractLsb' 0 10 = 0#10 → a.toInt = .error .ofInfinity) ∧
    (a.bits.extractLsb' 10 5 = 31#5 → a.bits.extractLsb' 0 10 ≠ 0#10 → a.toInt = .error .ofNan) ∧
    (a.bits.extractLsb' 10 5 ≠ 31#5 → ∃ v, a.toInt = .ok v)

/-- Whichever byte order a serializer takes, the sixteen bits come back (20_memory.md R27). -/
def Obligations.SerializationPreservesTheBits : Prop :=
  ∀ (o : ByteOrder) (x : F16), deserializeF16 o (serializeF16 o x) = some x
end

