-- ==== Sys2Proof/Laws/State.lean ====
section
/-! SUPPORT. One lemma per field per update of the state, so that no proof unfolds a record update. -/

namespace Sys2Proof.Machine

section writeW
variable (s : State) (n : WireIx) (v : F32)
@[simp] theorem State.writeW_w : (s.writeW n v).w = s.w.set n (some v) := rfl
@[simp] theorem State.writeW_h : (s.writeW n v).h = s.h := rfl
@[simp] theorem State.writeW_f32In : (s.writeW n v).f32In = s.f32In := rfl
@[simp] theorem State.writeW_f16In : (s.writeW n v).f16In = s.f16In := rfl
@[simp] theorem State.writeW_pending : (s.writeW n v).pending = s.pending := rfl
end writeW

section writeH
variable (s : State) (n : WireIx) (v : F16)
@[simp] theorem State.writeH_w : (s.writeH n v).w = s.w := rfl
@[simp] theorem State.writeH_h : (s.writeH n v).h = s.h.set n (some v) := rfl
@[simp] theorem State.writeH_f32In : (s.writeH n v).f32In = s.f32In := rfl
@[simp] theorem State.writeH_f16In : (s.writeH n v).f16In = s.f16In := rfl
@[simp] theorem State.writeH_pending : (s.writeH n v).pending = s.pending := rfl
end writeH

section driveF32In
variable (s : State) (v : F32)
@[simp] theorem State.driveF32In_w : (s.driveF32In v).w = s.w := rfl
@[simp] theorem State.driveF32In_h : (s.driveF32In v).h = s.h := rfl
@[simp] theorem State.driveF32In_f32In : (s.driveF32In v).f32In = some v := rfl
@[simp] theorem State.driveF32In_f16In : (s.driveF32In v).f16In = s.f16In := rfl
@[simp] theorem State.driveF32In_pending : (s.driveF32In v).pending = s.pending := rfl
end driveF32In

section driveF16In
variable (s : State) (v : F16)
@[simp] theorem State.driveF16In_w : (s.driveF16In v).w = s.w := rfl
@[simp] theorem State.driveF16In_h : (s.driveF16In v).h = s.h := rfl
@[simp] theorem State.driveF16In_f32In : (s.driveF16In v).f32In = s.f32In := rfl
@[simp] theorem State.driveF16In_f16In : (s.driveF16In v).f16In = some v := rfl
@[simp] theorem State.driveF16In_pending : (s.driveF16In v).pending = s.pending := rfl
end driveF16In

section insertTableWord
variable (s : State) (nbits w : Nat)
@[simp] theorem State.insertTableWord_w : (s.insertTableWord nbits w).w = s.w := rfl
@[simp] theorem State.insertTableWord_h : (s.insertTableWord nbits w).h = s.h := rfl
@[simp] theorem State.insertTableWord_f32In : (s.insertTableWord nbits w).f32In = s.f32In := rfl
@[simp] theorem State.insertTableWord_f16In : (s.insertTableWord nbits w).f16In = s.f16In := rfl
@[simp] theorem State.insertTableWord_pending :
    (s.insertTableWord nbits w).pending = tableInstrWords nbits w ++ s.pending := rfl
end insertTableWord

/-! Reading a wire after writing one. -/

theorem State.writeW_get_same (s : State) (n : WireIx) (v : F32) : (s.writeW n v).w[n] = some v := by
  simp

theorem State.writeW_get_other (s : State) {n m : WireIx} (v : F32) (h : n ≠ m) : (s.writeW n v).w[m] = s.w[m] := by
  simp [Fin.val_inj, h]

theorem State.writeH_get_same (s : State) (n : WireIx) (v : F16) : (s.writeH n v).h[n] = some v := by
  simp

theorem State.writeH_get_other (s : State) {n m : WireIx} (v : F16) (h : n ≠ m) : (s.writeH n v).h[m] = s.h[m] := by
  simp [Fin.val_inj, h]

end Sys2Proof.Machine
end

