-- ==== Sys2Proof/Laws/Ops.lean ====
section
/-! SUPPORT. For each shared operation, all it can answer. -/

namespace Sys2Proof.Machine

theorem State.readW_eq_ok_iff {s : State} {n : WireIx} {v : F32} : s.readW n = .ok v ↔ s.w[n] = some v := by
  unfold State.readW
  split <;> simp_all

theorem State.readW_eq_error_iff {s : State} {n : WireIx} {r : Refusal} :
    s.readW n = .error r ↔ s.w[n] = none ∧ r = .unwrittenW n := by
  unfold State.readW
  cases s.w[n] <;> simp [eq_comm]

theorem State.readH_eq_ok_iff {s : State} {n : WireIx} {v : F16} : s.readH n = .ok v ↔ s.h[n] = some v := by
  unfold State.readH
  split <;> simp_all

theorem State.readH_eq_error_iff {s : State} {n : WireIx} {r : Refusal} :
    s.readH n = .error r ↔ s.h[n] = none ∧ r = .unwrittenH n := by
  unfold State.readH
  cases s.h[n] <;> simp [eq_comm]

/-- A port that has just been driven gives its block's output. -/
@[simp] theorem State.sampleF16Out_driveF32In (s : State) (x : F32) :
    (s.driveF32In x).sampleF16Out = .ok (f32ToF16 x) := rfl

@[simp] theorem State.sampleF32Out_driveF16In (s : State) (x : F16) :
    (s.driveF16In x).sampleF32Out = .ok (f16ToF32 Config.decNan x) := rfl

theorem State.fetch_of_decode {s : State} {i : Instr} {rest : List HWord} (h : decode s.pending = .ok (i, rest)) :
    s.fetch = .ok (i, { s with pending := rest }) := by
  simp [State.fetch, h]

/-- A list that has a word is never refused for having none. -/
theorem decode_cons_ne_noWord (w : HWord) (ws : List HWord) : decode (w :: ws) ≠ .error .noWord := by
  simp only [decode, decodeF32tof16, decodeF16tof32]
  split_ifs
  · simp
  · simp
  · simp
  · unfold decodeLi32; split <;> split_ifs <;> simp
  · unfold decodeLi16; split <;> split_ifs <;> simp

/-- All a fetch can answer. -/
theorem State.fetch_cases (s : State) :
    (∃ i rest, decode s.pending = .ok (i, rest) ∧ s.fetch = .ok (i, { s with pending := rest })) ∨
    (s.pending = [] ∧ s.fetch = .error .endOfRun) ∨
    (∃ e, e ≠ .noWord ∧ decode s.pending = .error e ∧ s.fetch = .error (.notAnInstruction e)) := by
  rcases hd : decode s.pending with e | ⟨i, rest⟩
  · by_cases he : e = .noWord
    · subst he
      refine .inr (.inl ⟨?_, by simp [State.fetch, hd]⟩)
      cases hp : s.pending with
      | nil => rfl
      | cons w ws =>
        exact absurd (hp ▸ hd) (decode_cons_ne_noWord w ws)
    · exact .inr (.inr ⟨e, he, rfl, by simp only [State.fetch, hd]⟩)
  · exact .inl ⟨i, rest, rfl, State.fetch_of_decode hd⟩

end Sys2Proof.Machine
end

