-- ==== Sys2Proof/Laws/Exec.lean ====
section
/-! SUPPORT. What each meaning answers, said once. -/

namespace Sys2Proof.Machine

theorem execF32tof16_of_written {s : State} {src : WireIx} {x : F32} (d : WireIx) (h : s.w[src] = some x) :
    execF32tof16 d src s = .next ((s.driveF32In x).writeH d (f32ToF16 x)) := by
  simp [execF32tof16, State.readW_eq_ok_iff.2 h]

theorem execF32tof16_of_unwritten {s : State} {src : WireIx} (d : WireIx) (h : s.w[src] = none) :
    execF32tof16 d src s = .refused (.unwrittenW src) := by
  simp [execF32tof16, State.readW_eq_error_iff.2 ⟨h, rfl⟩]

theorem execF16tof32_of_written {s : State} {src : WireIx} {x : F16} (d : WireIx) (h : s.h[src] = some x) :
    execF16tof32 d src s = .next ((s.driveF16In x).writeW d (f16ToF32 Config.decNan x)) := by
  simp [execF16tof32, State.readH_eq_ok_iff.2 h]

theorem execF16tof32_of_unwritten {s : State} {src : WireIx} (d : WireIx) (h : s.h[src] = none) :
    execF16tof32 d src s = .refused (.unwrittenH src) := by
  simp [execF16tof32, State.readH_eq_error_iff.2 ⟨h, rfl⟩]

/-- All that an instruction that answers a next state can have done. -/
theorem exec_next_cases {i : Instr} {s t : State} (h : exec i s = .next t) :
    (∃ d src x, i = .f32tof16 d src ∧ s.w[src] = some x ∧ t = (s.driveF32In x).writeH d (f32ToF16 x)) ∨
    (∃ d src x, i = .f16tof32 d src ∧ s.h[src] = some x ∧
      t = (s.driveF16In x).writeW d (f16ToF32 Config.decNan x)) ∨
    (∃ d imm, i = .li32 d imm ∧ t = s.writeW d imm) ∨
    (∃ d imm, i = .li16 d imm ∧ t = s.writeH d imm) := by
  cases i with
  | f32tof16 d src =>
    cases hx : s.w[src] with
    | none => simp [exec, execF32tof16_of_unwritten d hx] at h
    | some x =>
      simp only [exec, execF32tof16_of_written d hx, Host.Outcome.next.injEq] at h
      exact .inl ⟨d, src, x, rfl, hx, h.symm⟩
  | f16tof32 d src =>
    cases hx : s.h[src] with
    | none => simp [exec, execF16tof32_of_unwritten d hx] at h
    | some x =>
      simp only [exec, execF16tof32_of_written d hx, Host.Outcome.next.injEq] at h
      exact .inr (.inl ⟨d, src, x, rfl, hx, h.symm⟩)
  | li32 d imm =>
    simp only [exec, execLi32, Host.Outcome.next.injEq] at h
    exact .inr (.inr (.inl ⟨d, imm, rfl, h.symm⟩))
  | li16 d imm =>
    simp only [exec, execLi16, Host.Outcome.next.injEq] at h
    exact .inr (.inr (.inr ⟨d, imm, rfl, h.symm⟩))

/-- A step that answers a next state fetched an instruction and executed it. -/
theorem step_next_cases {s t : State} (h : step s = .next t) :
    ∃ i rest, decode s.pending = .ok (i, rest) ∧ exec i { s with pending := rest } = .next t := by
  rcases State.fetch_cases s with ⟨i, rest, hd, hf⟩ | ⟨_, hf⟩ | ⟨e, _, _, hf⟩
  · exact ⟨i, rest, hd, by simpa [step, hf] using h⟩
  · simp [step, hf] at h
  · simp [step, hf] at h

end Sys2Proof.Machine
end

