-- ==== Sys2Proof/Laws/Blocks.lean ====
section
/-! SUPPORT. The two relations statements use, `Encodes` and `Decodes`, against the blocks' functions. -/

namespace Sys2Proof.Safety

open Sys2Proof.Machine

theorem encodes_f32ToF16 (x : F32) : Encodes x (f32ToF16 x) := fun d _ _ h =>
  ⟨_, execF32tof16_of_written d h, rfl, rfl, rfl, rfl⟩

theorem encodes_iff {x : F32} {y : F16} : Encodes x y ↔ y = f32ToF16 x := by
  refine ⟨fun h => ?_, fun h => h ▸ encodes_f32ToF16 x⟩
  obtain ⟨t, he, hh, -⟩ := h 0 0 { State.reset with w := State.reset.w.set 0 (some x) } (by simp)
  rw [exec, execF32tof16_of_written 0 (x := x) (by simp), Host.Outcome.next.injEq] at he
  subst he
  simpa using (congrArg (fun v : Vector (Option F16) 8 => v[(0 : Fin 8)]) hh).symm

theorem decodes_f16ToF32 (x : F16) : Decodes x (f16ToF32 Config.decNan x) := fun d _ _ h =>
  ⟨_, execF16tof32_of_written d h, rfl, rfl, rfl, rfl⟩

theorem decodes_iff {x : F16} {y : F32} : Decodes x y ↔ y = f16ToF32 Config.decNan x := by
  refine ⟨fun h => ?_, fun h => h ▸ decodes_f16ToF32 x⟩
  obtain ⟨t, he, hw, -⟩ := h 0 0 { State.reset with h := State.reset.h.set 0 (some x) } (by simp)
  rw [exec, execF16tof32_of_written 0 (x := x) (by simp), Host.Outcome.next.injEq] at he
  subst he
  simpa using (congrArg (fun v : Vector (Option F32) 8 => v[(0 : Fin 8)]) hw).symm

end Sys2Proof.Safety
end

