-- ==== Sys2Proof/Laws/Fields.lean ====
section
/-! SUPPORT. The small lemmas of the field functions, of the five cases, and of each case of the two blocks. -/

namespace Sys2Proof.Machine

/-! The fields as numbers. -/

theorem f32Sign_toNat (x : F32) : (f32Sign x).toNat = x.toNat / 2 ^ 31 := by
  have := x.isLt
  simp [f32Sign, Nat.shiftRight_eq_div_pow]; omega

theorem f32Exp_toNat (x : F32) : (f32Exp x).toNat = x.toNat / 2 ^ 23 % 2 ^ 8 := by
  simp [f32Exp, Nat.shiftRight_eq_div_pow]

theorem f32Frac_toNat (x : F32) : (f32Frac x).toNat = x.toNat % 2 ^ 23 := by simp [f32Frac]

theorem packF32_toNat (s : BitVec 1) (e : BitVec 8) (f : BitVec 23) :
    (packF32 s e f).toNat = s.toNat * 2 ^ 31 + e.toNat * 2 ^ 23 + f.toNat := by
  have h : (packF32 s e f).toNat = BitVec.toNat (w := 1 + 8 + 23) (s ++ e ++ f) := rfl
  rw [h, BitVec.toNat_append, BitVec.toNat_append, ← Nat.shiftLeft_add_eq_or_of_lt f.isLt,
    ← Nat.shiftLeft_add_eq_or_of_lt e.isLt]
  simp only [Nat.shiftLeft_eq]
  omega

theorem f16Sign_toNat (x : F16) : (f16Sign x).toNat = x.toNat / 2 ^ 15 := by
  have := x.isLt
  simp [f16Sign, Nat.shiftRight_eq_div_pow]; omega

theorem f16Exp_toNat (x : F16) : (f16Exp x).toNat = x.toNat / 2 ^ 10 % 2 ^ 5 := by
  simp [f16Exp, Nat.shiftRight_eq_div_pow]

theorem f16Frac_toNat (x : F16) : (f16Frac x).toNat = x.toNat % 2 ^ 10 := by simp [f16Frac]

theorem packF16_toNat (s : BitVec 1) (E : BitVec 5) (F : BitVec 10) :
    (packF16 s E F).toNat = s.toNat * 2 ^ 15 + E.toNat * 2 ^ 10 + F.toNat := by
  have h : (packF16 s E F).toNat = BitVec.toNat (w := 1 + 5 + 10) (s ++ E ++ F) := rfl
  rw [h, BitVec.toNat_append, BitVec.toNat_append, ← Nat.shiftLeft_add_eq_or_of_lt F.isLt,
    ← Nat.shiftLeft_add_eq_or_of_lt E.isLt]
  simp only [Nat.shiftLeft_eq]
  omega

theorem narrowFrac_toNat (f : BitVec 23) : (narrowFrac f).toNat = f.toNat / 2 ^ 13 := by
  have := f.isLt
  simp [narrowFrac, Nat.shiftRight_eq_div_pow]; omega

theorem widenFrac_toNat (F : BitVec 10) : (widenFrac F).toNat = F.toNat * 2 ^ 13 := by
  have := F.isLt
  simp [widenFrac, Nat.shiftLeft_eq]; omega

/-! The fields of an assembled word, and a word assembled from its own fields. -/

@[simp] theorem f32Sign_packF32 (s : BitVec 1) (e : BitVec 8) (f : BitVec 23) : f32Sign (packF32 s e f) = s := by
  apply BitVec.eq_of_toNat_eq; rw [f32Sign_toNat, packF32_toNat]; omega

@[simp] theorem f32Exp_packF32 (s : BitVec 1) (e : BitVec 8) (f : BitVec 23) : f32Exp (packF32 s e f) = e := by
  apply BitVec.eq_of_toNat_eq; rw [f32Exp_toNat, packF32_toNat]; omega

@[simp] theorem f32Frac_packF32 (s : BitVec 1) (e : BitVec 8) (f : BitVec 23) : f32Frac (packF32 s e f) = f := by
  apply BitVec.eq_of_toNat_eq; rw [f32Frac_toNat, packF32_toNat]; omega

theorem packF32_fields (x : F32) : packF32 (f32Sign x) (f32Exp x) (f32Frac x) = x := by
  apply BitVec.eq_of_toNat_eq; rw [packF32_toNat, f32Sign_toNat, f32Exp_toNat, f32Frac_toNat]; omega

@[simp] theorem f16Sign_packF16 (s : BitVec 1) (E : BitVec 5) (F : BitVec 10) : f16Sign (packF16 s E F) = s := by
  apply BitVec.eq_of_toNat_eq; rw [f16Sign_toNat, packF16_toNat]; omega

@[simp] theorem f16Exp_packF16 (s : BitVec 1) (E : BitVec 5) (F : BitVec 10) : f16Exp (packF16 s E F) = E := by
  apply BitVec.eq_of_toNat_eq; rw [f16Exp_toNat, packF16_toNat]; omega

@[simp] theorem f16Frac_packF16 (s : BitVec 1) (E : BitVec 5) (F : BitVec 10) : f16Frac (packF16 s E F) = F := by
  apply BitVec.eq_of_toNat_eq; rw [f16Frac_toNat, packF16_toNat]; omega

theorem packF16_fields (x : F16) : packF16 (f16Sign x) (f16Exp x) (f16Frac x) = x := by
  apply BitVec.eq_of_toNat_eq; rw [packF16_toNat, f16Sign_toNat, f16Exp_toNat, f16Frac_toNat]; omega

/-! The re-biased exponents, as the three ranges of R68 and the one of R78. -/

theorem rebiasToF16_low : ∀ e : BitVec 8, e.toNat ≤ 112 → rebiasToF16 e = 0#5 := by decide

theorem rebiasToF16_mid : ∀ e : BitVec 8, 113 ≤ e.toNat → e.toNat ≤ 142 → rebiasToF16 e = (e - 112#8).setWidth 5 := by
  decide

theorem rebiasToF16_high : ∀ e : BitVec 8, 143 ≤ e.toNat → rebiasToF16 e = 31#5 := by decide

theorem rebiasToF32_eq : ∀ E : BitVec 5, rebiasToF32 E = E.setWidth 8 + 112#8 := by decide

/-! The cases. -/

theorem f32Class_infinity {x : F32} (he : f32Exp x = 255#8) (hf : f32Frac x = 0#23) : f32Class x = .infinity := by
  simp [f32Class, he, hf]

theorem f32Class_nan {x : F32} (he : f32Exp x = 255#8) (hf : f32Frac x ≠ 0#23) : f32Class x = .nan := by
  simp [f32Class, he, hf]

theorem f32Class_zero {x : F32} (he : f32Exp x = 0#8) (hf : f32Frac x = 0#23) : f32Class x = .zero := by
  simp [f32Class, he, hf]

theorem f32Class_subnormal {x : F32} (he : f32Exp x = 0#8) (hf : f32Frac x ≠ 0#23) : f32Class x = .subnormal := by
  simp [f32Class, he, hf]

theorem f32Class_normal {x : F32} (h255 : f32Exp x ≠ 255#8) (h0 : f32Exp x ≠ 0#8) : f32Class x = .normal := by
  simp [f32Class, h255, h0]

theorem f16Class_infinity {x : F16} (hE : f16Exp x = 31#5) (hF : f16Frac x = 0#10) : f16Class x = .infinity := by
  simp [f16Class, hE, hF]

theorem f16Class_nan {x : F16} (hE : f16Exp x = 31#5) (hF : f16Frac x ≠ 0#10) : f16Class x = .nan := by
  simp [f16Class, hE, hF]

theorem f16Class_zero {x : F16} (hE : f16Exp x = 0#5) (hF : f16Frac x = 0#10) : f16Class x = .zero := by
  simp [f16Class, hE, hF]

theorem f16Class_subnormal {x : F16} (hE : f16Exp x = 0#5) (hF : f16Frac x ≠ 0#10) : f16Class x = .subnormal := by
  simp [f16Class, hE, hF]

theorem f16Class_normal {x : F16} (h31 : f16Exp x ≠ 31#5) (h0 : f16Exp x ≠ 0#5) : f16Class x = .normal := by
  simp [f16Class, h31, h0]

/-- The cases are disjoint and cover every input, with the conditions that tell them apart (R52). -/
theorem f32Class_cases (x : F32) :
    (f32Class x = .infinity ∧ f32Exp x = 255#8 ∧ f32Frac x = 0#23) ∨
    (f32Class x = .nan ∧ f32Exp x = 255#8 ∧ f32Frac x ≠ 0#23) ∨
    (f32Class x = .zero ∧ f32Exp x = 0#8 ∧ f32Frac x = 0#23) ∨
    (f32Class x = .subnormal ∧ f32Exp x = 0#8 ∧ f32Frac x ≠ 0#23) ∨
    (f32Class x = .normal ∧ f32Exp x ≠ 255#8 ∧ f32Exp x ≠ 0#8) := by
  by_cases h255 : f32Exp x = 255#8
  · by_cases hf : f32Frac x = 0#23
    · exact .inl ⟨f32Class_infinity h255 hf, h255, hf⟩
    · exact .inr (.inl ⟨f32Class_nan h255 hf, h255, hf⟩)
  · by_cases h0 : f32Exp x = 0#8
    · by_cases hf : f32Frac x = 0#23
      · exact .inr (.inr (.inl ⟨f32Class_zero h0 hf, h0, hf⟩))
      · exact .inr (.inr (.inr (.inl ⟨f32Class_subnormal h0 hf, h0, hf⟩)))
    · exact .inr (.inr (.inr (.inr ⟨f32Class_normal h255 h0, h255, h0⟩)))

/-- The cases are disjoint and cover every input, with the conditions that tell them apart (R72). -/
theorem f16Class_cases (x : F16) :
    (f16Class x = .infinity ∧ f16Exp x = 31#5 ∧ f16Frac x = 0#10) ∨
    (f16Class x = .nan ∧ f16Exp x = 31#5 ∧ f16Frac x ≠ 0#10) ∨
    (f16Class x = .zero ∧ f16Exp x = 0#5 ∧ f16Frac x = 0#10) ∨
    (f16Class x = .subnormal ∧ f16Exp x = 0#5 ∧ f16Frac x ≠ 0#10) ∨
    (f16Class x = .normal ∧ f16Exp x ≠ 31#5 ∧ f16Exp x ≠ 0#5) := by
  by_cases h31 : f16Exp x = 31#5
  · by_cases hF : f16Frac x = 0#10
    · exact .inl ⟨f16Class_infinity h31 hF, h31, hF⟩
    · exact .inr (.inl ⟨f16Class_nan h31 hF, h31, hF⟩)
  · by_cases h0 : f16Exp x = 0#5
    · by_cases hF : f16Frac x = 0#10
      · exact .inr (.inr (.inl ⟨f16Class_zero h0 hF, h0, hF⟩))
      · exact .inr (.inr (.inr (.inl ⟨f16Class_subnormal h0 hF, h0, hF⟩)))
    · exact .inr (.inr (.inr (.inr ⟨f16Class_normal h31 h0, h31, h0⟩)))

end Sys2Proof.Machine
end

