-- ==== Sys2Proof/Laws/Words.lean ====
section
/-! SUPPORT. The fields of a harness word that the encoder builds, and the length of an instruction's words. -/

namespace Sys2Proof

@[simp] theorem wordKind_harnessWord (k : BitVec 2) (d s : WireIx) : wordKind (harnessWord k d s) = k := by
  revert k d s; decide

@[simp] theorem wordD_harnessWord (k : BitVec 2) (d s : WireIx) : wordD (harnessWord k d s) = d := by
  revert k d s; decide

@[simp] theorem wordS_harnessWord (k : BitVec 2) (d s : WireIx) : wordS (harnessWord k d s) = s := by
  revert k d s; decide

@[simp] theorem wordLow_harnessWord (k : BitVec 2) (d s : WireIx) : wordLow (harnessWord k d s) = 0#8 := by
  revert k d s; decide

@[simp] theorem encodeAll_nil : encodeAll [] = [] := rfl

@[simp] theorem encodeAll_cons (i : Instr) (is : List Instr) : encodeAll (i :: is) = encode i ++ encodeAll is := rfl

theorem encode_length (i : Instr) : (encode i).length = i.lengthWords := by cases i <;> rfl

theorem lengthWords_pos (i : Instr) : 0 < i.lengthWords := by cases i <;> simp [Instr.lengthWords]

end Sys2Proof
end

