-- ==== Sys2Proof/Laws/PerInstr.lean ====
section
/-! SUPPORT. Facts about every instruction as syntax, one lemma per constructor. -/

/-- The words of an instruction are as many as its row says (`length_words` of spec/opcode_table.json). -/
def Sys2Proof.Laws.Length.Statement (i : Sys2Proof.Instr) : Prop :=
  (Sys2Proof.encode i).length = i.row.lengthWords ∧ i.row.lengthWords = i.lengthWords

theorem Sys2Proof.Laws.Length.f32tof16 (d s : Sys2Proof.WireIx) :
    Sys2Proof.Laws.Length.Statement (.f32tof16 d s) := ⟨rfl, rfl⟩

theorem Sys2Proof.Laws.Length.f16tof32 (d s : Sys2Proof.WireIx) :
    Sys2Proof.Laws.Length.Statement (.f16tof32 d s) := ⟨rfl, rfl⟩

theorem Sys2Proof.Laws.Length.li32 (d : Sys2Proof.WireIx) (imm : BitVec 32) :
    Sys2Proof.Laws.Length.Statement (.li32 d imm) := ⟨rfl, rfl⟩

theorem Sys2Proof.Laws.Length.li16 (d : Sys2Proof.WireIx) (imm : BitVec 16) :
    Sys2Proof.Laws.Length.Statement (.li16 d imm) := ⟨rfl, rfl⟩
end

