-- ==== Sys2Proof/Tests/Slice0.lean ====
section
/-! SUPPORT. The model's own tests, every expected result from the spec, and a witness of the hypotheses of every
statement that has any. -/

namespace Sys2Proof.Tests

open Sys2Proof Sys2Proof.Machine Sys2Proof.Safety

/-! ## Well-formedness: one ill-formed term for each check, and a well-formed one -/

/-- `F32TOF16 h0, w1` where only `w0` is written. -/
theorem test_wellFormed_refuses_unwritten_w :
    wellFormedProgram [.li32 0 0x3FC00000#32, .f32tof16 0 1] = false := by decide

/-- `F16TOF32 w0, h1` where only `h0` is written. -/
theorem test_wellFormed_refuses_unwritten_h :
    wellFormedProgram [.li16 0 0x3E00#16, .f16tof32 0 1] = false := by decide

/-- The spec's program P6 (95_test_vectors.md section 5) reads only written wires. -/
theorem test_wellFormed_accepts_P6 :
    wellFormedProgram [.li16 0 0x83FF#16, .f16tof32 0 0, .f32tof16 1 0] = true := by decide

/-! ## Words written out bit by bit: kind, D, S, low byte (30_encoding.md R49) -/

theorem test_decode_F32TOF16_h1_w2 : decode [0b00_001_010_00000000#16] = .ok (.f32tof16 1 2, []) := by rfl
theorem test_decode_F16TOF32_w3_h1 : decode [0b01_011_001_00000000#16] = .ok (.f16tof32 3 1, []) := by rfl
theorem test_decode_LI32_w2 :
    decode [0b10_010_000_00000000#16, 0xC049#16, 0x0FD0#16] = .ok (.li32 2 0xC0490FD0#32, []) := by rfl
theorem test_decode_LI16_h1 : decode [0b11_001_000_00000000#16, 0x7C01#16] = .ok (.li16 1 0x7C01#16, []) := by rfl
theorem test_decode_refuses_low_bits :
    decode [0b00_001_010_00000001#16] = .error (.lowBitsSet 0b00_001_010_00000001#16) := by rfl
theorem test_decode_refuses_LI32_with_S :
    decode [0b10_010_001_00000000#16, 0#16, 0#16] = .error (.liSourceSet 0b10_010_001_00000000#16) := by rfl
theorem test_decode_refuses_LI16_with_S :
    decode [0b11_001_100_00000000#16, 0#16] = .error (.liSourceSet 0b11_001_100_00000000#16) := by rfl
theorem test_decode_refuses_LI32_cut_short :
    decode [0b10_010_000_00000000#16, 0#16] = .error (.immediateMissing 0b10_010_000_00000000#16) := by rfl
theorem test_decode_refuses_LI16_cut_short :
    decode [0b11_001_000_00000000#16] = .error (.immediateMissing 0b11_001_000_00000000#16) := by rfl
theorem test_decodeTableWord_F16TOF32 : decodeTableWord 16 0x4800 = some (.f16tof32 1 0) := by decide
theorem test_decodeTableWord_LI32 : decodeTableWord 48 0x0FD0C0499000 = some (.li32 2 0xC0490FD0#32) := by decide
theorem test_opcodeTable_rows_do_not_overlap :
    opcodeTable.Pairwise (fun a b => a.pattern &&& b.mask ≠ b.pattern &&& a.mask) := by decide

/-- The written form of P1's fourth line and second line. -/
theorem test_assembly :
    (Instr.li32 2 0xC0490FD0#32).assembly = "LI32 w2, 0xC0490FD0".toList ∧
    (Instr.f32tof16 0 0).assembly = "F32TOF16 h0, w0".toList := by decide

/-! ## The blocks' functions on the spec's vectors (95_test_vectors.md sections 2 and 3) -/

/-- E1 to E42. -/
def encoderVectors : List (F32 × F16) := [
    (0x00000000#32, 0x0000#16), (0x80000000#32, 0x8000#16), (0x3F800000#32, 0x3C00#16),
    (0xC0000000#32, 0xC000#16), (0x3FC00000#32, 0x3E00#16), (0x3DCCCCCD#32, 0x2E66#16),
    (0x40490FD0#32, 0x4248#16), (0x47000000#32, 0x7800#16), (0x477FE000#32, 0x7BFF#16),
    (0x477FFF00#32, 0x7BFF#16), (0x477FFFFF#32, 0x7BFF#16), (0x47800000#32, 0x7C00#16),
    (0xC7800000#32, 0xFC00#16), (0x7149F2CA#32, 0x7E4F#16), (0x71800000#32, 0x7C00#16),
    (0x7F7FFFFF#32, 0x7FFF#16), (0x7F800000#32, 0x7C00#16), (0xFF800000#32, 0xFC00#16),
    (0x7F800001#32, 0x7C00#16), (0x7F801FFF#32, 0x7C00#16), (0x7F802000#32, 0x7C01#16)] ++ [
    (0x7FC00000#32, 0x7E00#16), (0xFFC00000#32, 0xFE00#16), (0xFFFFFFFF#32, 0xFFFF#16),
    (0x38000000#32, 0x0000#16), (0x38400000#32, 0x0200#16), (0x387FFFFF#32, 0x03FF#16),
    (0x38800000#32, 0x0400#16), (0x2EDBE6FF#32, 0x02DF#16), (0xAEDBE6FF#32, 0x82DF#16),
    (0x00800000#32, 0x0000#16), (0x00000001#32, 0x0000#16), (0x00001FFF#32, 0x0000#16),
    (0x00002000#32, 0x0001#16), (0x00400000#32, 0x0200#16), (0x807FFFFF#32, 0x83FF#16),
    (0x3F802000#32, 0x3C01#16), (0x3F801000#32, 0x3C00#16), (0x3F803000#32, 0x3C01#16),
    (0x3F801FFF#32, 0x3C00#16), (0x47FFE000#32, 0x7FFF#16), (0x47802000#32, 0x7C01#16)]

theorem test_encoder_vectors : encoderVectors.map (fun p => f32ToF16 p.1) = encoderVectors.map Prod.snd := by rfl

/-- H1 to H23. -/
def decoderVectors : List (F16 × F32) := [
    (0x0000#16, 0x00000000#32), (0x8000#16, 0x00000000#32), (0x0001#16, 0x00000000#32),
    (0x03FF#16, 0x00000000#32), (0x8001#16, 0x00000000#32), (0x83FF#16, 0x00000000#32),
    (0x0200#16, 0x00000000#32), (0x02DF#16, 0x00000000#32), (0x0400#16, 0x38800000#32),
    (0x8400#16, 0xB8800000#32), (0x0401#16, 0x38802000#32), (0x3555#16, 0x3EAAA000#32),
    (0x3C00#16, 0x3F800000#32), (0xBC00#16, 0xBF800000#32), (0x3C01#16, 0x3F802000#32),
    (0x3E00#16, 0x3FC00000#32), (0x4248#16, 0x40490000#32), (0x2E66#16, 0x3DCCC000#32),
    (0x7800#16, 0x47000000#32), (0x7BFF#16, 0x477FE000#32), (0xFBFF#16, 0xC77FE000#32),
    (0x7C00#16, 0x7F800000#32), (0xFC00#16, 0xFF800000#32)]

/-- H24 to H30, which give `DEC_NAN`. -/
def decoderNanVectors : List F16 := [
    0x7C01#16, 0xFC01#16, 0x7E00#16, 0xFE00#16, 0x7E4F#16, 0x7FFF#16, 0xFFFF#16]

theorem test_decoder_vectors (n : F32) :
    decoderVectors.map (fun p => f16ToF32 n p.1) = decoderVectors.map Prod.snd ∧
    decoderNanVectors.map (f16ToF32 n) = decoderNanVectors.map (fun _ => n) := ⟨rfl, rfl⟩

/-! ## One step each -/

/-- A state with `w2`, `h1` written and the given words to run. -/
def sample (words : List HWord) : State :=
  { State.reset with
    w := State.reset.w.set 2 (some 0xC0490FD0#32), h := State.reset.h.set 1 (some 0x3E00#16), pending := words }

/-- The next state's wires, if there is one. -/
def wires : Result → Option (Vector (Option F32) 8 × Vector (Option F16) 8)
  | .next t => some (t.w, t.h)
  | _ => none

/-- `F32TOF16 h1, w2`: the destination is written (E7, with R66). -/
theorem test_step_F32TOF16 :
    (wires (step (sample [0x0A00#16]))).map (fun p => p.2[1]) = some (some 0xC248#16) := by decide

/-- `F16TOF32 w3, h1`: the destination is written (H16), the other wires kept. -/
theorem test_step_F16TOF32 :
    wires (step (sample [0x5900#16])) =
      some ((sample []).w.set 3 (some 0x3FC00000#32), (sample []).h) := by rfl

theorem test_step_LI32 :
    (wires (step (sample [0x9000#16, 0x4780#16, 0x0000#16]))).map (fun p => p.1[2]) = some (some 0x47800000#32) := by
  decide

theorem test_step_LI16 :
    (wires (step (sample [0xC800#16, 0x7C01#16]))).map (fun p => p.2[1]) = some (some 0x7C01#16) := by decide

theorem test_step_refuses_unwritten : step (sample [0x0000#16]) = .refused (.unwrittenW 0) := by rfl
theorem test_step_refuses_at_the_end : step (sample []) = .refused .endOfRun := by rfl
theorem test_step_refuses_bad_word :
    step (sample [0x00FF#16]) = .refused (.notAnInstruction (.lowBitsSet 0x00FF#16)) := by rfl
theorem test_withFetchWord_runs_LI16_first :
    (wires (step (State.reset.withFetchWord 32 0x83FFC000))).map (fun p => p.2[0]) = some (some 0x83FF#16) := by decide

/-! ## Witnesses: states and operands that meet the hypotheses of each statement that has any -/

theorem witness_DecodedWordsAreTheEncoding : decode [0x5900#16, 0x0000#16] = .ok (.f16tof32 3 1, [0x0000#16]) := by rfl

theorem witness_DecoderFollowsTheOpcodeTable :
    decode [0x3700#16] = .ok (.f32tof16 6 7, []) ∧ decode [0x7800#16] = .ok (.f16tof32 7 0, []) ∧
    decode [0xB800#16, 0#16, 1#16] = .ok (.li32 7 1#32, []) ∧ decode [0xF800#16, 1#16] = .ok (.li16 7 1#16, []) :=
  ⟨rfl, rfl, rfl, rfl⟩

theorem witness_OpIdIsTheWordsKind :
    (Instr.f32tof16 7 7).opId = some 0#1 ∧ (Instr.f16tof32 0 7).opId = some 1#1 := by decide

theorem witness_StepRunsTheDecodedInstruction :
    decode (sample [0x0A00#16, 0x5900#16]).pending = .ok (.f32tof16 1 2, [0x5900#16]) := by rfl

theorem witness_StepStopsWhereThereIsNoInstruction :
    (sample []).pending = [] ∧ (sample [0x0001#16]).pending ≠ [] ∧
    decode (sample [0x0001#16]).pending = .error (.lowBitsSet 0x0001#16) := ⟨rfl, by decide, rfl⟩

theorem witness_LoadedTableWordIsRunNext :
    decodeTableWord 16 0x0A00 = some (.f32tof16 1 2) ∧ decodeTableWord 16 0x8000 = some (.li32 0 0#32) := by decide

/-- Each classified input of the encoder's statements, at the edges of its range. -/
theorem witness_EncoderGivesSignedInfinity :
    (0xFF800000#32).extractLsb' 23 8 = 255#8 ∧ (0xFF800000#32).extractLsb' 0 23 = 0#23 := by decide

theorem witness_EncoderTruncatesTheNanPayload :
    (0xFFFFFFFF#32).extractLsb' 23 8 = 255#8 ∧ (0xFFFFFFFF#32).extractLsb' 0 23 ≠ 0#23 ∧
    (0x7F800001#32).extractLsb' 23 8 = 255#8 ∧ (0x7F800001#32).extractLsb' 0 23 ≠ 0#23 := by decide

theorem witness_EncoderKeepsTheSignOfZero :
    (0x80000000#32).extractLsb' 23 8 = 0#8 ∧ (0x80000000#32).extractLsb' 0 23 = 0#23 := by decide

theorem witness_EncoderTruncatesSubnormals :
    (0x807FFFFF#32).extractLsb' 23 8 = 0#8 ∧ (0x807FFFFF#32).extractLsb' 0 23 ≠ 0#23 ∧
    (0x00001FFF#32).extractLsb' 23 8 = 0#8 ∧ (0x00001FFF#32).extractLsb' 0 23 ≠ 0#23 ∧
    ((0x00001FFF#32).extractLsb' 0 23).toNat < 0x2000 := by decide

theorem witness_EncoderRebiasesNormals :
    1 ≤ ((0x00800000#32).extractLsb' 23 8).toNat ∧ ((0x00800000#32).extractLsb' 23 8).toNat ≤ 254 ∧
    1 ≤ ((0x7F7FFFFF#32).extractLsb' 23 8).toNat ∧ ((0x7F7FFFFF#32).extractLsb' 23 8).toNat ≤ 254 := by decide

theorem witness_EncoderOverflowAliases :
    143 ≤ ((0x47800000#32).extractLsb' 23 8).toNat ∧ ((0x47800000#32).extractLsb' 23 8).toNat ≤ 254 ∧
    (0x47800000#32).extractLsb' 13 10 = 0#10 ∧
    143 ≤ ((0x7F7FFFFF#32).extractLsb' 23 8).toNat ∧ ((0x7F7FFFFF#32).extractLsb' 23 8).toNat ≤ 254 ∧
    (0x7F7FFFFF#32).extractLsb' 13 10 ≠ 0#10 := by decide

theorem witness_EncoderUnderflowAliases :
    1 ≤ ((0x00800000#32).extractLsb' 23 8).toNat ∧ ((0x00800000#32).extractLsb' 23 8).toNat ≤ 112 ∧
    (0x00800000#32).extractLsb' 13 10 = 0#10 ∧
    1 ≤ ((0x387FFFFF#32).extractLsb' 23 8).toNat ∧ ((0x387FFFFF#32).extractLsb' 23 8).toNat ≤ 112 ∧
    (0x387FFFFF#32).extractLsb' 13 10 ≠ 0#10 := by decide

theorem witness_EncoderTurnsSmallNansIntoInfinity :
    (0x7F801FFF#32).extractLsb' 23 8 = 255#8 ∧ 1 ≤ ((0x7F801FFF#32).extractLsb' 0 23).toNat ∧
    ((0x7F801FFF#32).extractLsb' 0 23).toNat ≤ 0x1FFF := by decide

/-- The hypothesis inside `Encodes`, and `Encodes` itself. -/
theorem witness_Encodes : (sample []).w[2] = some 0xC0490FD0#32 ∧ Encodes 0xC0490FD0#32 0xC248#16 :=
  ⟨by decide, encodes_iff.2 (by decide)⟩

/-- The hypothesis inside `Decodes`, and `Decodes` itself. -/
theorem witness_Decodes : (sample []).h[1] = some 0x3E00#16 ∧ Decodes 0x3E00#16 0x3FC00000#32 :=
  ⟨by decide, decodes_iff.2 rfl⟩

theorem witness_EncoderPreservesTheSign : Encodes 0xC0490FD0#32 0xC248#16 := encodes_iff.2 (by decide)

theorem witness_EncoderExponentFollowsTheMagnitude :
    Encodes 0x3FC00000#32 0x3E00#16 ∧ f32Value 0x3FC00000#32 = .finite (3 / 2) := by
  refine ⟨encodes_iff.2 (by decide), ?_⟩
  rw [f32Value, if_neg (by decide), if_neg (by decide)]
  have h : ((f32Exp 0x3FC00000#32).toNat = 127) ∧ (f32Frac 0x3FC00000#32).toNat = 2 ^ 22 ∧
    signFactor (f32Sign 0x3FC00000#32) = 1 := ⟨rfl, rfl, rfl⟩
  rw [h.1, h.2.1, h.2.2]
  norm_num

theorem witness_EncoderTruncatesTowardZero :
    113 ≤ ((0x3FC00001#32).extractLsb' 23 8).toNat ∧ ((0x3FC00001#32).extractLsb' 23 8).toNat ≤ 142 ∧
    Encodes 0x3FC00001#32 0x3E00#16 ∧ (∃ q, f32Value 0x3FC00001#32 = .finite q) ∧
    (∃ r, f16Value 0x3E00#16 = .finite r) ∧ (0x3FC00001#32).extractLsb' 0 13 ≠ 0#13 :=
  ⟨by decide, by decide, encodes_iff.2 (by decide), ⟨_, rfl⟩, ⟨_, rfl⟩, by decide⟩

/-- 65520, one half of the way from 65504 to 65536, for the last clause of the same statement. -/
theorem witness_EncoderTruncatesTowardZero_at_the_top :
    ((0x477FF000#32).extractLsb' 23 8).toNat = 142 ∧ Encodes 0x477FF000#32 0x7BFF#16 ∧
    f32Value 0x477FF000#32 = .finite 65520 ∧ (∃ r, f16Value 0x7BFF#16 = .finite r) := by
  refine ⟨by decide, encodes_iff.2 (by decide), ?_, ⟨_, rfl⟩⟩
  rw [f32Value, if_neg (by decide), if_neg (by decide)]
  have h : ((f32Exp 0x477FF000#32).toNat = 142) ∧ (f32Frac 0x477FF000#32).toNat = 0x7FF000 ∧
    signFactor (f32Sign 0x477FF000#32) = 1 := ⟨rfl, rfl, rfl⟩
  rw [h.1, h.2.1, h.2.2]
  norm_num

theorem witness_DecoderGivesSignedInfinity :
    (0xFC00#16).extractLsb' 10 5 = 31#5 ∧ (0xFC00#16).extractLsb' 0 10 = 0#10 := by decide

theorem witness_DecoderGivesTheOneGenericNan :
    (0xFC01#16).extractLsb' 10 5 = 31#5 ∧ (0xFC01#16).extractLsb' 0 10 ≠ 0#10 := by decide

theorem witness_DecoderGivesPlusZero :
    (0x8000#16).extractLsb' 10 5 = 0#5 ∧ (0x8000#16).extractLsb' 0 10 = 0#10 ∧
    (0x83FF#16).extractLsb' 10 5 = 0#5 ∧ (0x83FF#16).extractLsb' 0 10 ≠ 0#10 := by decide

theorem witness_DecoderRebiasesNormals :
    1 ≤ ((0x0400#16).extractLsb' 10 5).toNat ∧ ((0x0400#16).extractLsb' 10 5).toNat ≤ 30 ∧
    1 ≤ ((0xFBFF#16).extractLsb' 10 5).toNat ∧ ((0xFBFF#16).extractLsb' 10 5).toNat ≤ 30 := by decide

theorem witness_DecoderIsInjectiveOnNormalsAndInfinities :
    Decodes 0x0000#16 0#32 ∧ Decodes 0x8001#16 0#32 ∧
    Decodes 0x7C01#16 Config.decNan ∧ Decodes 0xFE00#16 Config.decNan :=
  ⟨decodes_iff.2 rfl, decodes_iff.2 rfl, decodes_iff.2 rfl, decodes_iff.2 rfl⟩

theorem witness_DecoderIsExactOnValues : Decodes 0xFBFF#16 0xC77FE000#32 := decodes_iff.2 rfl

theorem witness_EncodeAfterDecode :
    Decodes 0x0400#16 0x38800000#32 ∧ Decodes 0x7BFF#16 0x477FE000#32 ∧ Decodes 0x7C00#16 0x7F800000#32 ∧
    Decodes 0x83FF#16 0x00000000#32 ∧ Decodes 0x7C01#16 Config.decNan ∧
    Encodes Config.decNan (f32ToF16 Config.decNan) :=
  ⟨decodes_iff.2 rfl, decodes_iff.2 rfl, decodes_iff.2 rfl, decodes_iff.2 rfl, decodes_iff.2 rfl, encodes_f32ToF16 _⟩

/-- One input for each clause: the range's two ends, an underflow, the two overflows. -/
theorem witness_DecodeAfterEncode :
    (Encodes 0x38801FFF#32 0x0400#16 ∧ Decodes 0x0400#16 0x38800000#32) ∧
    (Encodes 0x477FFFFF#32 0x7BFF#16 ∧ Decodes 0x7BFF#16 0x477FE000#32) ∧
    (Encodes 0x387FFFFF#32 0x03FF#16 ∧ Decodes 0x03FF#16 0x00000000#32) ∧
    (Encodes 0x47800000#32 0x7C00#16 ∧ Decodes 0x7C00#16 0x7F800000#32) ∧
    (Encodes 0x47802000#32 0x7C01#16 ∧ Decodes 0x7C01#16 Config.decNan) :=
  ⟨⟨encodes_iff.2 (by decide), decodes_iff.2 rfl⟩, ⟨encodes_iff.2 (by decide), decodes_iff.2 rfl⟩,
   ⟨encodes_iff.2 (by decide), decodes_iff.2 rfl⟩, ⟨encodes_iff.2 (by decide), decodes_iff.2 rfl⟩,
   ⟨encodes_iff.2 (by decide), decodes_iff.2 rfl⟩⟩

theorem witness_DecoderDropsTheSignOfZeroAndNan :
    Decodes 0x8000#16 0x00000000#32 ∧ Decodes 0xFC01#16 Config.decNan ∧ Decodes 0xFC00#16 0xFF800000#32 ∧
    Decodes 0x8400#16 0xB8800000#32 ∧ Encodes 0x80000000#32 0x8000#16 :=
  ⟨decodes_iff.2 rfl, decodes_iff.2 rfl, decodes_iff.2 rfl, decodes_iff.2 rfl, encodes_iff.2 (by decide)⟩

/-- Two different states that agree on the source, and evaluations that complete in both. -/
theorem witness_ResultsDependOnTheSourceOnly :
    (sample []).w[2] = (sample [0x0000#16]).w[2] ∧ (sample []).h[1] = (sample [0x0000#16]).h[1] ∧
    (∃ t, exec (.f32tof16 0 2) (sample []) = .next t) ∧ (∃ t, exec (.f32tof16 5 2) (sample [0x0000#16]) = .next t) ∧
    (∃ t, exec (.f16tof32 0 1) (sample []) = .next t) ∧ (∃ t, exec (.f16tof32 5 1) (sample [0x0000#16]) = .next t) :=
  ⟨rfl, rfl, ⟨_, rfl⟩, ⟨_, rfl⟩, ⟨_, rfl⟩, ⟨_, rfl⟩⟩

/-- For `EvaluationIsIdempotent`, `InstructionsChangeOnlyTheirDestination` and `PortsStayDrivenAfterAnEvaluation`. -/
theorem witness_every_instruction_completes_somewhere :
    (∃ t, exec (.f32tof16 7 2) (sample []) = .next t) ∧ (∃ t, exec (.f16tof32 7 1) (sample []) = .next t) ∧
    (∃ t, exec (.li32 7 0#32) (sample []) = .next t) ∧ (∃ t, exec (.li16 7 0#16) (sample []) = .next t) :=
  ⟨⟨_, rfl⟩, ⟨_, rfl⟩, ⟨_, rfl⟩, ⟨_, rfl⟩⟩

theorem witness_EvaluationsOfTheTwoBlocksCommute :
    (0 : WireIx) ≠ 1 ∧ (0 : WireIx) ≠ 2 ∧ (sample []).w[2] = some 0xC0490FD0#32 ∧
    (sample []).h[1] = some 0x3E00#16 := by decide

theorem witness_UnwrittenWireReadIsRefused : (sample []).w[0] = none ∧ (sample []).h[0] = none := by decide

theorem witness_OnlyDefiniteInputsAreEvaluated :
    State.reset.f32In = none ∧ State.reset.f16In = none ∧
    (State.reset.driveF32In 1#32).f32In = some 1#32 ∧ (State.reset.driveF16In 1#16).f16In = some 1#16 := by decide

/-- A state with an instruction to run that meets the invariant, and steps. -/
theorem witness_StepKeepsLoaded :
    Loaded (sample [0x0A00#16, 0x5900#16]) ∧ ∃ t, step (sample [0x0A00#16, 0x5900#16]) = .next t :=
  ⟨⟨[.f32tof16 1 2, .f16tof32 3 1], rfl, rfl⟩, ⟨_, rfl⟩⟩

theorem witness_LoadedStateCanGoOn : Loaded (sample [0x5900#16]) := ⟨[.f16tof32 3 1], rfl, rfl⟩

theorem witness_WellFormedProgramsRunToTheirEnd :
    (sample [0x0A00#16, 0x5900#16]).pending = encodeAll [.f32tof16 1 2, .f16tof32 3 1] ∧
    wellFormedAfter (writtenOf (sample [0x0A00#16, 0x5900#16])) [.f32tof16 1 2, .f16tof32 3 1] = true := ⟨rfl, rfl⟩

theorem witness_WrittenWiresStayWritten :
    (∃ t, step (sample [0x0A00#16]) = .next t) ∧ (sample [0x0A00#16]).w[2].isSome = true ∧
    (sample [0x0A00#16]).h[1].isSome = true := ⟨⟨_, rfl⟩, rfl, rfl⟩

theorem witness_HalfEqualityIsOfTheRawBits :
    (Half.mk 0x7C01#16).bits.extractLsb' 10 5 = 31#5 ∧ (Half.mk 0x7C01#16).bits.extractLsb' 0 10 ≠ 0#10 := by decide

theorem witness_SameEncodingsAreEqualHalves : Encodes 0x3F800000#32 0x3C00#16 ∧ Encodes 0x3F801FFF#32 0x3C00#16 :=
  ⟨encodes_iff.2 (by decide), encodes_iff.2 (by decide)⟩

theorem witness_HalfArithmeticIsDecodeComputeEncode :
    Decodes (Half.mk 0x3C00#16).bits 0x3F800000#32 ∧
    Encodes (Config.f32Add 0x3F800000#32 0x3F800000#32) (f32ToF16 (Config.f32Add 0x3F800000#32 0x3F800000#32)) ∧
    Encodes (Config.f32Sub 0x3F800000#32 0x3F800000#32) (f32ToF16 (Config.f32Sub 0x3F800000#32 0x3F800000#32)) ∧
    Encodes (Config.f32Mul 0x3F800000#32 0x3F800000#32) (f32ToF16 (Config.f32Mul 0x3F800000#32 0x3F800000#32)) ∧
    Encodes (Config.f32Div 0x3F800000#32 0x3F800000#32) (f32ToF16 (Config.f32Div 0x3F800000#32 0x3F800000#32)) :=
  ⟨decodes_iff.2 rfl, encodes_f32ToF16 _, encodes_f32ToF16 _, encodes_f32ToF16 _, encodes_f32ToF16 _⟩

theorem witness_HalfToIntegerIsRefusedOnNonNumbersOnly :
    (0x7C00#16).extractLsb' 10 5 = 31#5 ∧ (0x7C00#16).extractLsb' 0 10 = 0#10 ∧
    (0x7C01#16).extractLsb' 10 5 = 31#5 ∧ (0x7C01#16).extractLsb' 0 10 ≠ 0#10 ∧
    (0x7BFF#16).extractLsb' 10 5 ≠ 31#5 := by decide

end Sys2Proof.Tests
end

section
/-! What sampling an output port answers, for each state of its block's input port (10_state.md R21, R22). -/

namespace Sys2Proof.Machine

theorem State.sampleF16Out_of_driven {s : State} {x : F32} (h : s.f32In = some x) :
    s.sampleF16Out = .ok (f32ToF16 x) := by
  simp [State.sampleF16Out, h]

theorem State.sampleF16Out_of_undriven {s : State} (h : s.f32In = none) :
    s.sampleF16Out = .error .undrivenF32In := by
  simp [State.sampleF16Out, h]

theorem State.sampleF32Out_of_driven {s : State} {x : F16} (h : s.f16In = some x) :
    s.sampleF32Out = .ok (f16ToF32 Config.decNan x) := by
  simp [State.sampleF32Out, h]

theorem State.sampleF32Out_of_undriven {s : State} (h : s.f16In = none) :
    s.sampleF32Out = .error .undrivenF16In := by
  simp [State.sampleF32Out, h]

end Sys2Proof.Machine
end

section
/-! The statements about the ports (10_state.md R22). -/

namespace Sys2Proof.Proofs

open Sys2Proof.Machine

/-- Settles O45: a driven port answers its block's function of the pattern, an undriven one R22's refusal. -/
theorem onlyDefiniteInputsAreEvaluated : Obligations.OnlyDefiniteInputsAreEvaluated := by
  refine ⟨?encoderDriven, ?decoderDriven, ?encoderUndriven, ?decoderUndriven⟩
  case encoderDriven => exact fun _ x h => ⟨f32ToF16 x, State.sampleF16Out_of_driven h⟩
  case decoderDriven => exact fun _ x h => ⟨f16ToF32 Config.decNan x, State.sampleF32Out_of_driven h⟩
  case encoderUndriven => exact fun _ h => State.sampleF16Out_of_undriven h
  case decoderUndriven => exact fun _ h => State.sampleF32Out_of_undriven h

end Sys2Proof.Proofs
end

section
/-! The encoder's block as equations: one per case (40_encoder.md R53 to R59), the one formula the five agree on (R63),
and its result as a number. -/

namespace Sys2Proof.Machine

section fiveCases
variable {x : F32}

theorem f32ToF16_infinity (he : f32Exp x = 255#8) (hf : f32Frac x = 0#23) :
    f32ToF16 x = packF16 (f32Sign x) 31#5 0#10 := by
  simp only [f32ToF16, f32Class_infinity he hf]

theorem f32ToF16_nan (he : f32Exp x = 255#8) (hf : f32Frac x ≠ 0#23) :
    f32ToF16 x = packF16 (f32Sign x) 31#5 (narrowFrac (f32Frac x)) := by
  simp only [f32ToF16, f32Class_nan he hf]

theorem f32ToF16_zero (he : f32Exp x = 0#8) (hf : f32Frac x = 0#23) :
    f32ToF16 x = packF16 (f32Sign x) 0#5 0#10 := by
  simp only [f32ToF16, f32Class_zero he hf]

theorem f32ToF16_subnormal (he : f32Exp x = 0#8) (hf : f32Frac x ≠ 0#23) :
    f32ToF16 x = packF16 (f32Sign x) 0#5 (narrowFrac (f32Frac x)) := by
  simp only [f32ToF16, f32Class_subnormal he hf]

theorem f32ToF16_normal (h255 : f32Exp x ≠ 255#8) (h0 : f32Exp x ≠ 0#8) :
    f32ToF16 x = packF16 (f32Sign x) (rebiasToF16 (f32Exp x)) (narrowFrac (f32Frac x)) := by
  simp only [f32ToF16, f32Class_normal h255 h0]

end fiveCases

/-- The exponent's clamp gives the special cases' exponents too,
so that the normal case's formula holds of every input (R63). -/
theorem f32ToF16_eq_packF16 (x : F32) :
    f32ToF16 x = packF16 (f32Sign x) (rebiasToF16 (f32Exp x)) (narrowFrac (f32Frac x)) := by
  have rebias255 : rebiasToF16 255#8 = 31#5 := rebiasToF16_high _ (by decide)
  have rebias0 : rebiasToF16 0#8 = 0#5 := rebiasToF16_low _ (by decide)
  have narrow0 : narrowFrac 0#23 = 0#10 := by decide
  rcases f32Class_cases x with ⟨_, he, hf⟩ | ⟨_, he, hf⟩ | ⟨_, he, hf⟩ | ⟨_, he, hf⟩ | ⟨_, h255, h0⟩
  · rw [f32ToF16_infinity he hf, he, hf, rebias255, narrow0]
  · rw [f32ToF16_nan he hf, he, rebias255]
  · rw [f32ToF16_zero he hf, he, hf, rebias0, narrow0]
  · rw [f32ToF16_subnormal he hf, he, rebias0]
  · exact f32ToF16_normal h255 h0

theorem narrowFrac_f32Frac (x : F32) : narrowFrac (f32Frac x) = x.extractLsb' 13 10 := by
  apply BitVec.eq_of_toNat_eq
  rw [narrowFrac_toNat, f32Frac_toNat, BitVec.extractLsb'_toNat, Nat.shiftRight_eq_div_pow]
  omega

/-- A fraction below `0x2000` has no bit that survives the narrowing (R56). -/
theorem narrowFrac_of_lt {f : BitVec 23} (h : f.toNat < 0x2000) : narrowFrac f = 0#10 := by
  apply BitVec.eq_of_toNat_eq
  rw [narrowFrac_toNat, BitVec.toNat_zero]
  exact Nat.div_eq_of_lt h

theorem clamp_eq_max_min (i : Int) : clamp i 0 31 = max 0 (min 31 i) := by
  unfold clamp
  split_ifs <;> omega

/-- The clamped exponent fits its five bits: nothing wraps (R58). -/
theorem rebiasToF16_toNat (e : BitVec 8) :
    ((rebiasToF16 e).toNat : Int) = max 0 (min 31 ((e.toNat : Int) - 127 + 15)) := by
  rw [rebiasToF16, clamp_eq_max_min, BitVec.toNat_ofInt]
  omega

theorem packF16_eq_ofNat (s : BitVec 1) (E : BitVec 5) (F : BitVec 10) :
    packF16 s E F = BitVec.ofNat 16 (s.toNat * 0x8000 + E.toNat * 0x400 + F.toNat) := by
  apply BitVec.eq_of_toNat_eq
  rw [packF16_toNat, BitVec.toNat_ofNat]
  omega

theorem append_low_toNat (hi : BitVec 19) (low : BitVec 13) :
    (hi ++ low : F32).toNat = hi.toNat * 2 ^ 13 + low.toNat := by
  rw [BitVec.toNat_append, ← Nat.shiftLeft_add_eq_or_of_lt low.isLt, Nat.shiftLeft_eq]

/-- Inputs that agree on bits 31 to 13 encode alike (R60). -/
theorem f32ToF16_congr_high {x x' : F32} (h : x.toNat / 2 ^ 13 = x'.toNat / 2 ^ 13) : f32ToF16 x = f32ToF16 x' := by
  have hs : f32Sign x = f32Sign x' := by
    apply BitVec.eq_of_toNat_eq; rw [f32Sign_toNat, f32Sign_toNat]; omega
  have he : f32Exp x = f32Exp x' := by
    apply BitVec.eq_of_toNat_eq; rw [f32Exp_toNat, f32Exp_toNat]; omega
  have hf : narrowFrac (f32Frac x) = narrowFrac (f32Frac x') := by
    apply BitVec.eq_of_toNat_eq; rw [narrowFrac_toNat, narrowFrac_toNat, f32Frac_toNat, f32Frac_toNat]; omega
  rw [f32ToF16_eq_packF16, f32ToF16_eq_packF16, hs, he, hf]

end Sys2Proof.Machine

namespace Sys2Proof.Safety

open Sys2Proof.Machine

/-- An input's result is known once its re-biased exponent is. -/
theorem encodes_of_rebias {x : F32} {E : BitVec 5} (h : rebiasToF16 (f32Exp x) = E) :
    Encodes x (packF16 (f32Sign x) E (x.extractLsb' 13 10)) := by
  rw [encodes_iff, f32ToF16_eq_packF16, h, narrowFrac_f32Frac]

end Sys2Proof.Safety
end

section
/-! The statements about the encoder (40_encoder.md R50 to R65). -/

namespace Sys2Proof.Proofs

open Sys2Proof.Machine Sys2Proof.Safety

/-- Settles O10: the rule's fields are the block's fields as numbers, and each of the five cases gives its own branch. -/
theorem encoderFollowsTheFiveCaseRule : Obligations.EncoderFollowsTheFiveCaseRule := by
  refine ⟨fun x => encodes_iff.2 ?_, encodes_iff.2 (by decide), fun _ _ => rfl⟩
  have e255 : (f32Exp x).toNat = 255 ↔ f32Exp x = 255#8 := BitVec.toNat_inj (y := 255#8)
  have e0 : (f32Exp x).toNat = 0 ↔ f32Exp x = 0#8 := BitVec.toNat_inj (y := 0#8)
  have f0 : (f32Frac x).toNat = 0 ↔ f32Frac x = 0#23 := BitVec.toNat_inj (y := 0#23)
  simp only [← f32Sign_toNat, ← f32Exp_toNat, ← f32Frac_toNat, ← narrowFrac_toNat, ← rebiasToF16_toNat, e255, e0, f0]
  rcases f32Class_cases x with ⟨_, he, hf⟩ | ⟨_, he, hf⟩ | ⟨_, he, hf⟩ | ⟨_, he, hf⟩ | ⟨_, h255, h0⟩
  · simp [f32ToF16_infinity he hf, packF16_eq_ofNat, he, hf]
  · simp [f32ToF16_nan he hf, packF16_eq_ofNat, he, hf]
  · simp [f32ToF16_zero he hf, packF16_eq_ofNat, he, hf]
  · simp [f32ToF16_subnormal he hf, packF16_eq_ofNat, he, hf]
  · simp [f32ToF16_normal h255 h0, packF16_eq_ofNat, h255, h0]

/-- Settles O11, by the infinity case's equation. -/
theorem encoderGivesSignedInfinity : Obligations.EncoderGivesSignedInfinity :=
  ⟨fun _ he hf => encodes_iff.2 (f32ToF16_infinity he hf).symm, encodes_iff.2 (by decide), encodes_iff.2 (by decide)⟩

/-- Settles O12, by the NaN case's equation. -/
theorem encoderTruncatesTheNanPayload : Obligations.EncoderTruncatesTheNanPayload := fun x he hf => by
  rw [← narrowFrac_f32Frac]
  exact encodes_iff.2 (f32ToF16_nan he hf).symm

/-- Settles O13, by the zero case's equation. -/
theorem encoderKeepsTheSignOfZero : Obligations.EncoderKeepsTheSignOfZero :=
  ⟨fun _ he hf => encodes_iff.2 (f32ToF16_zero he hf).symm, encodes_iff.2 (by decide), encodes_iff.2 (by decide)⟩

/-- Settles O14: the subnormal case's fraction is `f[22:13]`, which is zero when `f` is below `0x2000`. -/
theorem encoderTruncatesSubnormals : Obligations.EncoderTruncatesSubnormals := fun x he hf => by
  have h : Encodes x (packF16 (f32Sign x) 0#5 (narrowFrac (f32Frac x))) :=
    encodes_iff.2 (f32ToF16_subnormal he hf).symm
  refine ⟨narrowFrac_f32Frac x ▸ h, fun hlt => ?_⟩
  rwa [narrowFrac_of_lt (f := f32Frac x) hlt] at h

/-- Settles O15: the three fields of the normal case's result, read back. -/
theorem encoderRebiasesNormals : Obligations.EncoderRebiasesNormals := by
  intro x (h1 : 1 ≤ (f32Exp x).toNat) (h254 : (f32Exp x).toNat ≤ 254)
  have h255 : f32Exp x ≠ 255#8 := fun he => absurd (he ▸ h254) (by decide)
  have h0 : f32Exp x ≠ 0#8 := fun he => absurd (he ▸ h1) (by decide)
  refine ⟨_, encodes_iff.2 (f32ToF16_normal h255 h0).symm, ?sign, ?exponent, ?fraction⟩
  case sign => exact f16Sign_packF16 ..
  case exponent =>
    rw [← f16Exp, f16Exp_packF16]
    exact rebiasToF16_toNat _
  case fraction => exact (f16Frac_packF16 ..).trans (narrowFrac_f32Frac x)

/-- Settles O16: an input and its variant agree on bits 31 to 13, all the block reads. -/
theorem encoderDiscardsTheLowFractionBits : Obligations.EncoderDiscardsTheLowFractionBits := fun x => by
  refine ⟨f32ToF16 x, encodes_f32ToF16 x, ?fraction, fun low => encodes_iff.2 (f32ToF16_congr_high ?sameHighBits)⟩
  case fraction =>
    rw [f32ToF16_eq_packF16, ← narrowFrac_f32Frac]
    exact f16Frac_packF16 ..
  case sameHighBits =>
    have := x.isLt
    have := low.isLt
    rw [append_low_toNat, BitVec.extractLsb'_toNat, Nat.shiftRight_eq_div_pow]
    omega

/-- Settles O17: from 143 on the re-biased exponent is clamped to 31. -/
theorem encoderOverflowAliases : Obligations.EncoderOverflowAliases := fun x h143 _ => by
  have h := encodes_of_rebias (rebiasToF16_high (f32Exp x) h143)
  exact ⟨fun hF => hF ▸ h, fun _ => h⟩

/-- Settles O18: up to 112 the re-biased exponent is clamped to 0. -/
theorem encoderUnderflowAliases : Obligations.EncoderUnderflowAliases := fun x _ h112 => by
  have h := encodes_of_rebias (rebiasToF16_low (f32Exp x) h112)
  exact ⟨fun hF => hF ▸ h, fun _ => h⟩

/-- Settles O21: the one output is the block's function of the input. -/
theorem encoderIsTotalAndPure : Obligations.EncoderIsTotalAndPure := fun x =>
  ⟨f32ToF16 x, encodes_f32ToF16 x, fun _ h => encodes_iff.1 h⟩

end Sys2Proof.Proofs
end

section
/-! The decoder's block as equations: one per case (41_decoder.md R73 to R80), its result as a number, the generic NaN's
fields (00_scope.md R7), and how many inputs a condition on the fields selects. -/

namespace Sys2Proof.Machine

section fiveCases
variable {x : F16} (n : F32)

theorem f16ToF32_infinity (hE : f16Exp x = 31#5) (hF : f16Frac x = 0#10) :
    f16ToF32 n x = packF32 (f16Sign x) 0xFF#8 0#23 := by
  simp only [f16ToF32, f16Class_infinity hE hF]

theorem f16ToF32_nan (hE : f16Exp x = 31#5) (hF : f16Frac x ≠ 0#10) : f16ToF32 n x = n := by
  simp only [f16ToF32, f16Class_nan hE hF]

/-- The zero case and the subnormal case give the same +0 (R75, R76). -/
theorem f16ToF32_exp_zero (hE : f16Exp x = 0#5) : f16ToF32 n x = 0#32 := by
  by_cases hF : f16Frac x = 0#10
  · simp only [f16ToF32, f16Class_zero hE hF]
  · simp only [f16ToF32, f16Class_subnormal hE hF]

theorem f16ToF32_normal (h31 : f16Exp x ≠ 31#5) (h0 : f16Exp x ≠ 0#5) :
    f16ToF32 n x = packF32 (f16Sign x) (rebiasToF32 (f16Exp x)) (widenFrac (f16Frac x)) := by
  simp only [f16ToF32, f16Class_normal h31 h0]

end fiveCases

/-- The re-biased exponent is the integer's low eight bits (R78). -/
theorem rebiasToF32_toNat_mod (E : BitVec 5) : (rebiasToF32 E).toNat = (((E.toNat : Int) - 15 + 127) % 256).toNat :=
  BitVec.toNat_ofInt ..

/-- The mask to eight bits changes no exponent (R78). -/
theorem rebiasToF32_toNat (E : BitVec 5) : (rebiasToF32 E).toNat = E.toNat + 112 := by
  rw [rebiasToF32_toNat_mod]
  omega

theorem rebiasToF32_eq_ofNat (E : BitVec 5) : rebiasToF32 E = BitVec.ofNat 8 (E.toNat + 112) := by
  rw [← rebiasToF32_toNat, BitVec.ofNat_toNat, BitVec.setWidth_eq]

/-- A widened fraction narrows to itself: decoding loses no fraction bit (R79). -/
@[simp] theorem narrowFrac_widenFrac (F : BitVec 10) : narrowFrac (widenFrac F) = F := by
  apply BitVec.eq_of_toNat_eq
  rw [narrowFrac_toNat, widenFrac_toNat, Nat.mul_div_cancel _ (Nat.two_pow_pos 13)]

theorem widenFrac_eq_append (F : BitVec 10) : widenFrac F = F ++ 0#13 := by
  apply BitVec.eq_of_toNat_eq
  rw [widenFrac_toNat, BitVec.toNat_append, BitVec.toNat_zero, Nat.or_zero, Nat.shiftLeft_eq]

theorem packF32_widenFrac (s : BitVec 1) (e : BitVec 8) (F : BitVec 10) :
    packF32 s e (widenFrac F) = s ++ e ++ F ++ 0#13 := by
  rw [widenFrac_eq_append, BitVec.append_assoc (x₁ := s ++ e)]
  rfl

theorem packF32_eq_ofNat (s : BitVec 1) (e : BitVec 8) (f : BitVec 23) :
    packF32 s e f = BitVec.ofNat 32 (s.toNat * 2 ^ 31 + e.toNat * 2 ^ 23 + f.toNat) := by
  rw [← packF32_toNat, BitVec.ofNat_toNat, BitVec.setWidth_eq]

theorem decNan_eq_packF32 :
    Config.decNan = packF32 Config.decNanSign 0xFF#8 (BitVec.ofNat 23 (Config.decNanFractionPred.val + 1)) := rfl

/-! Counting inputs by their fields. -/

/-- The inputs with a condition on the exponent and one on the fraction: either sign, each such exponent, each such
fraction. -/
def f16FieldsEquiv (p : BitVec 5 → Prop) (q : BitVec 10 → Prop) :
    { x : F16 // p (f16Exp x) ∧ q (f16Frac x) } ≃ BitVec 1 × { E // p E } × { F // q F } where
  toFun x := (f16Sign x, ⟨f16Exp x, x.2.1⟩, ⟨f16Frac x, x.2.2⟩)
  invFun f := ⟨packF16 f.1 f.2.1 f.2.2, by simpa using f.2.1.2, by simpa using f.2.2.2⟩
  left_inv x := Subtype.ext (packF16_fields x)
  right_inv f := by simp

theorem card_bitVec (w : Nat) : Nat.card (BitVec w) = 2 ^ w :=
  (Nat.card_congr BitVec.equivFin.toEquiv).trans (Nat.card_fin _)

theorem card_bitVec_ne {w : Nat} (v : BitVec w) : Nat.card { b : BitVec w // b ≠ v } = 2 ^ w - 1 := by
  rw [← card_bitVec, Nat.card_eq_fintype_card, Nat.card_eq_fintype_card]
  exact Set.card_ne_eq v

theorem card_f16_of_fields (p : BitVec 5 → Prop) (q : BitVec 10 → Prop) :
    Nat.card { x : F16 // p (f16Exp x) ∧ q (f16Frac x) } = 2 * (Nat.card { E // p E } * Nat.card { F // q F }) := by
  rw [Nat.card_congr (f16FieldsEquiv p q), Nat.card_prod, Nat.card_prod, card_bitVec, pow_one]

end Sys2Proof.Machine

namespace Sys2Proof.Safety

open Sys2Proof.Machine

/-- Whatever the open sign and fraction are, `DEC_NAN` is a Float32 NaN (R7). -/
theorem admissibleNan_decNan : AdmissibleNan Config.decNan := by
  rw [decNan_eq_packF32]
  refine ⟨f32Exp_packF32 .., fun h => ?_⟩
  have hzero := congrArg BitVec.toNat ((f32Frac_packF32 ..).symm.trans h)
  have := Config.decNanFractionPred.isLt
  rw [BitVec.toNat_ofNat, BitVec.toNat_zero] at hzero
  omega

end Sys2Proof.Safety
end

section
/-! The statements about the decoder (41_decoder.md R70 to R81). -/

namespace Sys2Proof.Proofs

open Sys2Proof.Machine Sys2Proof.Safety

/-- Settles O26: the rule's fields are the block's fields as numbers, and each of the five cases gives its own branch. -/
theorem decoderFollowsTheFiveCaseRule : Obligations.DecoderFollowsTheFiveCaseRule := by
  refine ⟨fun x => decodes_iff.2 ?_, decodes_iff.2 rfl, fun _ _ => rfl⟩
  have E31 : (f16Exp x).toNat = 31 ↔ f16Exp x = 31#5 := BitVec.toNat_inj (y := 31#5)
  have E0 : (f16Exp x).toNat = 0 ↔ f16Exp x = 0#5 := BitVec.toNat_inj (y := 0#5)
  have F0 : (f16Frac x).toNat = 0 ↔ f16Frac x = 0#10 := BitVec.toNat_inj (y := 0#10)
  simp only [← f16Sign_toNat, ← f16Exp_toNat, ← f16Frac_toNat, ← widenFrac_toNat, ← rebiasToF32_toNat_mod, E31, E0, F0]
  rcases f16Class_cases x with ⟨_, hE, hF⟩ | ⟨_, hE, hF⟩ | ⟨_, hE, hF⟩ | ⟨_, hE, hF⟩ | ⟨_, h31, h0⟩
  · simp [f16ToF32_infinity _ hE hF, packF32_eq_ofNat, hE, hF]
  · simp [f16ToF32_nan _ hE hF, hE, hF]
  · simp [f16ToF32_exp_zero _ hE, hE]
  · simp [f16ToF32_exp_zero _ hE, hE]
  · simp [f16ToF32_normal _ h31 h0, packF32_eq_ofNat, h31, h0]

/-- Settles O27, by the infinity case's equation. -/
theorem decoderGivesSignedInfinity : Obligations.DecoderGivesSignedInfinity :=
  ⟨fun _ hE hF => decodes_iff.2 (f16ToF32_infinity _ hE hF).symm, decodes_iff.2 rfl, decodes_iff.2 rfl⟩

/-- Settles O28: the NaN case's equation; a NaN pattern is a sign, the one exponent and one of 1023 fractions. -/
theorem decoderGivesTheOneGenericNan : Obligations.DecoderGivesTheOneGenericNan := by
  refine ⟨fun _ hE hF => decodes_iff.2 (f16ToF32_nan _ hE hF).symm, ?count, admissibleNan_decNan⟩
  case count =>
    refine (card_f16_of_fields (· = 31#5) (· ≠ 0#10)).trans ?_
    rw [Nat.card_unique, card_bitVec_ne]
    norm_num

/-- Settles O29: an exponent of zero decides the result whatever the sign and the fraction are. -/
theorem decoderGivesPlusZero : Obligations.DecoderGivesPlusZero :=
  have h {x : F16} (hE : f16Exp x = 0#5) : Decodes x 0#32 := decodes_iff.2 (f16ToF32_exp_zero _ hE).symm
  ⟨fun _ hE _ => h hE, h (by decide), h (by decide), fun _ hE _ => h hE⟩

/-- Settles O30: the three fields of the normal case's result, read back, and the whole result assembled from them. -/
theorem decoderRebiasesNormals : Obligations.DecoderRebiasesNormals := by
  intro x (h1 : 1 ≤ (f16Exp x).toNat) (h30 : (f16Exp x).toNat ≤ 30)
  have h31 : f16Exp x ≠ 31#5 := fun hE => absurd (hE ▸ h30) (by decide)
  have h0 : f16Exp x ≠ 0#5 := fun hE => absurd (hE ▸ h1) (by decide)
  have wide := packF32_widenFrac (f16Sign x) (rebiasToF32 (f16Exp x)) (f16Frac x)
  have exponent := (congrArg BitVec.toNat (f32Exp_packF32 (f16Sign x) _ (widenFrac (f16Frac x)))).trans
    (rebiasToF32_toNat (f16Exp x))
  refine ⟨_, decodes_iff.2 (f16ToF32_normal _ h31 h0).symm, f32Sign_packF32 .., ?masked, exponent, ?low, ?high,
    ?fraction, ?tail, ?assembled⟩
  case masked =>
    rw [← f32Exp, exponent, ← f16Exp]
    omega
  case low => exact exponent.symm ▸ Nat.add_le_add_right h1 112
  case high => exact exponent.symm ▸ Nat.add_le_add_right h30 112
  case fraction =>
    rw [← narrowFrac_f32Frac, f32Frac_packF32, narrowFrac_widenFrac]
    rfl
  case tail =>
    rw [wide]
    exact BitVec.extractLsb'_append_eq_right
  case assembled =>
    rw [wide, rebiasToF32_eq_ofNat]
    rfl

/-- Settles O31: the one output is the block's function of the input. -/
theorem decoderIsTotalAndPure : Obligations.DecoderIsTotalAndPure := fun x =>
  ⟨f16ToF32 Config.decNan x, decodes_f16ToF32 x, fun _ h => decodes_iff.1 h⟩

end Sys2Proof.Proofs
end

section
/-! A half float's equality as equality of its bits (45_consumer_contract.md R95, R96), and what `F32TOF16` and
`F16TOF32` say of its construction, its conversion to Float32 and the route of its arithmetic (R91 to R93). -/

namespace Sys2Proof.Machine

open Sys2Proof.Safety

@[simp] theorem Half.equal_iff {a b : Half} : Half.equal a b = true ↔ a.bits = b.bits := beq_iff_eq

@[simp] theorem Half.unequal_iff {a b : Half} : Half.unequal a b = true ↔ a.bits ≠ b.bits := by
  rw [Half.unequal, Bool.not_eq_true', ← Bool.not_eq_true, Half.equal_iff]

theorem Half.fromF32_of_encodes {x : F32} {y : F16} (h : Encodes x y) : Half.fromF32 x = ⟨y⟩ := by
  rw [Half.fromF32, encodes_iff.1 h]

theorem Half.toF32_of_decodes {a : Half} {x : F32} (h : Decodes a.bits x) : a.toF32 = x :=
  (decodes_iff.1 h).symm

theorem Half.routed_of_blocks {op : F32 → F32 → F32} {a b : Half} {x y : F32} {z : F16}
    (ha : Decodes a.bits x) (hb : Decodes b.bits y) (hz : Encodes (op x y) z) : Half.routed op a b = ⟨z⟩ := by
  rw [Half.routed, toF32_of_decodes ha, toF32_of_decodes hb, fromF32_of_encodes hz]

end Sys2Proof.Machine
end

section
/-! The statements about the consumer's contract (45_consumer_contract.md R93 to R97). -/

namespace Sys2Proof.Proofs

open Sys2Proof.Machine Sys2Proof.Safety

/-- Settles O55: both constructions are the half float of the one result. -/
theorem sameEncodingsAreEqualHalves : Obligations.SameEncodingsAreEqualHalves := by
  have equalHalves {x x' : F32} {y : F16} (h : Encodes x y) (h' : Encodes x' y) :
      Half.equal (Half.fromF32 x) (Half.fromF32 x') = true := by
    rw [Half.fromF32_of_encodes h, Half.fromF32_of_encodes h', Half.equal_iff]
  have one : Encodes 0x3F800000#32 0x3C00#16 := encodes_iff.2 (by decide)
  have aboveOne : Encodes 0x3F801FFF#32 0x3C00#16 := encodes_iff.2 (by decide)
  exact ⟨fun _ _ _ => equalHalves, equalHalves one aboveOne, one, aboveOne⟩

/-- Settles O56: the four operators take the one route, whatever the 32-bit operation is. -/
theorem halfArithmeticIsDecodeComputeEncode : Obligations.HalfArithmeticIsDecodeComputeEncode :=
  fun _ _ _ _ _ ha hb =>
    ⟨Half.routed_of_blocks ha hb, Half.routed_of_blocks ha hb, Half.routed_of_blocks ha hb, Half.routed_of_blocks ha hb⟩

/-- Settles O54: the three patterns with `E = 0` decode alike, and yet their bits differ. -/
theorem halfEqualityIsOfTheRawBits : Obligations.HalfEqualityIsOfTheRawBits := by
  obtain ⟨-, plusZero, minusZero, fractionIgnored⟩ := decoderGivesPlusZero
  refine ⟨fun _ _ => ⟨Half.equal_iff, Half.unequal_iff⟩, ?zeros, ?zeroTiny, ?minusZeroTiny, plusZero, minusZero,
    fractionIgnored _ (by decide) (by decide), ?nan⟩
  case zeros => exact Half.unequal_iff.2 (by decide)
  case zeroTiny => exact Half.unequal_iff.2 (by decide)
  case minusZeroTiny => exact Half.unequal_iff.2 (by decide)
  case nan => exact fun _ _ _ => Half.equal_iff.2 rfl

end Sys2Proof.Proofs
end

section
/-! The harness's words (30_encoding.md R49): a word against its fields, all that the decoder accepts, and the rows of
the opcode table against the kinds. -/

namespace Sys2Proof

/-- A word with zero low bits is the one assembled from its kind, D and S: the fields cover bits 15 to 8. -/
theorem harnessWord_fields {w : HWord} (h : wordLow w = 0#8) : harnessWord (wordKind w) (wordD w) (wordS w) = w := by
  have join {i j m n : Nat} (hij : j = i + m) :
      w.extractLsb' j n ++ w.extractLsb' i m = w.extractLsb' i (n + m) :=
    BitVec.extractLsb'_append_extractLsb'_eq_extractLsb' hij
  calc harnessWord (wordKind w) (wordD w) (wordS w)
      = w.extractLsb' 14 2 ++ w.extractLsb' 11 3 ++ w.extractLsb' 8 3 ++ wordLow w := by rw [h]; rfl
    _ = w.extractLsb' 0 16 := by rw [wordLow, join (j := 14) rfl, join (j := 11) rfl, join (j := 8) rfl]
    _ = w := BitVec.extractLsb'_eq_self

theorem wordS_eq_zero_iff {w : HWord} : wordS w = 0 ↔ w.extractLsb' 8 3 = 0#3 :=
  BitVec.toFin_inj (y := 0#3)

/-- Bit 15 is the kind's upper bit: it tells the LI words from the block operations. -/
theorem bit15_eq_wordKind_bit1 (w : HWord) : w.extractLsb' 15 1 = (wordKind w).extractLsb' 1 1 := by
  apply BitVec.eq_of_toNat_eq
  simp only [wordKind, BitVec.extractLsb'_toNat, Nat.shiftRight_eq_div_pow]
  omega

theorem wordKind_cases (w : HWord) :
    wordKind w = 0b00#2 ∨ wordKind w = 0b01#2 ∨ wordKind w = 0b10#2 ∨ wordKind w = 0b11#2 := by
  generalize wordKind w = k
  revert k; decide

/-- A list of harness words starts with an instruction exactly if its low bits are zero and, by its kind, its S and what
follows are as R49 asks. -/
theorem decode_cons_eq_ok_iff {w : HWord} {ws rest : List HWord} {i : Instr} :
    decode (w :: ws) = .ok (i, rest) ↔ wordLow w = 0#8 ∧
      ((wordKind w = 0b00#2 ∧ i = .f32tof16 (wordD w) (wordS w) ∧ ws = rest) ∨
       (wordKind w = 0b01#2 ∧ i = .f16tof32 (wordD w) (wordS w) ∧ ws = rest) ∨
       (wordKind w = 0b10#2 ∧ wordS w = 0 ∧ ∃ hi lo, i = .li32 (wordD w) (hi ++ lo) ∧ ws = hi :: lo :: rest) ∨
       (wordKind w = 0b11#2 ∧ wordS w = 0 ∧ ∃ imm, i = .li16 (wordD w) imm ∧ ws = imm :: rest)) := by
  by_cases hlow : wordLow w = 0#8
  · rcases wordKind_cases w with hk | hk | hk | hk
    · simp [decode, decodeF32tof16, hlow, hk, eq_comm]
    · simp [decode, decodeF16tof32, hlow, hk, eq_comm]
    · by_cases hS : wordS w = 0
      · rcases ws with _ | ⟨hi, _ | ⟨lo, ws⟩⟩ <;> simp [decode, decodeLi32, hlow, hk, hS, eq_comm]
      · rcases ws with _ | ⟨hi, _ | ⟨lo, ws⟩⟩ <;> simp [decode, decodeLi32, hlow, hk, hS]
    · by_cases hS : wordS w = 0
      · rcases ws with _ | ⟨imm, ws⟩ <;> simp [decode, decodeLi16, hlow, hk, hS, eq_comm]
      · rcases ws with _ | ⟨imm, ws⟩ <;> simp [decode, decodeLi16, hlow, hk, hS]
  · simp [decode, hlow]

theorem decode_encode_append (i : Instr) (rest : List HWord) : decode (encode i ++ rest) = .ok (i, rest) := by
  cases i with
  | f32tof16 d s => simp [encode, decode, decodeF32tof16]
  | f16tof32 d s => simp [encode, decode, decodeF16tof32]
  | li32 d imm => simp [encode, decode, decodeLi32, BitVec.extractLsb'_append_extractLsb' (w := 16)]
  | li16 d imm => simp [encode, decode, decodeLi16]

theorem eq_encode_append_of_decode {ws rest : List HWord} {i : Instr} (h : decode ws = .ok (i, rest)) :
    ws = encode i ++ rest := by
  cases ws with
  | nil => simp [decode] at h
  | cons w ws =>
    obtain ⟨hlow, h⟩ := decode_cons_eq_ok_iff.1 h
    have hw := harnessWord_fields hlow
    rcases h with ⟨hk, rfl, rfl⟩ | ⟨hk, rfl, rfl⟩ | ⟨hk, hS, hi, lo, rfl, rfl⟩ | ⟨hk, hS, imm, rfl, rfl⟩
    · rw [hk] at hw
      simp [encode, hw]
    · rw [hk] at hw
      simp [encode, hw]
    · rw [hk, hS] at hw
      rw [encode, hw, BitVec.extractLsb'_append_eq_left, BitVec.extractLsb'_append_eq_right]
      rfl
    · rw [hk, hS] at hw
      simp [encode, hw]

/-! The rows of the opcode table against the words' kinds. -/

theorem row_mem_opcodeTable (i : Instr) : i.row ∈ opcodeTable := by
  cases i <;> simp [opcodeTable, Instr.row]

theorem row_lengthWords (i : Instr) : i.row.lengthWords = i.lengthWords := by cases i <;> rfl

theorem row_covers_first_word {i : Instr} {w : HWord} {ws rest : List HWord} (h : w :: ws = encode i ++ rest) :
    i.row.covers w = true := by
  cases i with
  | f32tof16 d s => rw [(List.cons.inj h).1, Instr.row]; clear h; revert d s; decide
  | f16tof32 d s => rw [(List.cons.inj h).1, Instr.row]; clear h; revert d s; decide
  | li32 d imm => rw [(List.cons.inj h).1, Instr.row]; clear h; revert d; decide
  | li16 d imm => rw [(List.cons.inj h).1, Instr.row]; clear h; revert d; decide

theorem wordKind_and (v w : HWord) : wordKind (v &&& w) = wordKind v &&& wordKind w := by
  simp [wordKind, BitVec.extractLsb'_and]

/-- Every row's mask holds both kind bits, so a row covers words of its pattern's kind only. -/
theorem wordKind_of_covers {r : OpcodeRow} {w : HWord} (hr : r ∈ opcodeTable) (h : r.covers w = true) :
    wordKind w = wordKind r.pattern := by
  have hmask : ∀ r ∈ opcodeTable, wordKind r.mask = BitVec.allOnes 2 := by decide
  rw [← beq_iff_eq.1 h, wordKind_and, hmask r hr, BitVec.and_allOnes]

/-- No two rows have the same kind. -/
theorem eq_of_wordKind_pattern {r r' : OpcodeRow} (hr : r ∈ opcodeTable) (hr' : r' ∈ opcodeTable)
    (h : wordKind r.pattern = wordKind r'.pattern) : r = r' := by
  have hdistinct : (opcodeTable.map fun r => wordKind r.pattern).Nodup := by decide
  exact List.inj_on_of_nodup_map hdistinct hr hr' h

/-- What a number's instruction takes of its three words are the words that encode it. -/
theorem tableInstrWords_of_decodeTableWord {nbits w : Nat} {i : Instr} (h : decodeTableWord nbits w = some i) :
    tableInstrWords nbits w = encode i := by
  rcases hd : decode (tableWords nbits w) with e | ⟨j, rest⟩
  · simp [decodeTableWord, hd] at h
  · obtain rfl : j = i := by simpa [decodeTableWord, hd] using h
    simp only [tableInstrWords, hd]
    rw [eq_encode_append_of_decode hd, ← encode_length, List.take_left]

end Sys2Proof

namespace Sys2Proof.Machine

theorem step_of_decode {s : State} {i : Instr} {rest : List HWord} (h : decode s.pending = .ok (i, rest)) :
    step s = exec i { s with pending := rest } := by
  rw [step, State.fetch_of_decode h]

end Sys2Proof.Machine
end

section
/-! The statements about the words and about the step that fetches them (30_encoding.md R45, R49; 10_state.md R16). -/

namespace Sys2Proof.Proofs

open Sys2Proof.Machine

/-- Settles O1: each kind's word is read back field by field, and an LI32's halves join to its immediate. -/
theorem decodingAnEncodedInstructionGivesItBack : Obligations.DecodingAnEncodedInstructionGivesItBack :=
  decode_encode_append

/-- Settles O2: a word with zero low bits is its three fields, and an LI word's S is zero. -/
theorem decodedWordsAreTheEncoding : Obligations.DecodedWordsAreTheEncoding :=
  fun _ _ _ => eq_encode_append_of_decode

/-- Settles O3, kind by kind. -/
theorem decoderAcceptsExactlyTheHarnessWords : Obligations.DecoderAcceptsExactlyTheHarnessWords := by
  intro w rest
  rw [bit15_eq_wordKind_bit1, ← wordS_eq_zero_iff]
  change _ ↔ wordLow w = 0#8 ∧ _ ∧ (wordKind w = 0b10#2 → _) ∧ (wordKind w = 0b11#2 → _)
  simp only [Prod.exists, decode_cons_eq_ok_iff]
  rcases wordKind_cases w with hk | hk | hk | hk
  · simp [hk]
  · simp [hk]
  · rcases rest with _ | ⟨hi, _ | ⟨lo, rest⟩⟩ <;> simp [hk]
  · cases rest <;> simp [hk]

/-- Settles O4: the words taken are the instruction's own, so its first word's kind picks the row. -/
theorem decoderFollowsTheOpcodeTable : Obligations.DecoderFollowsTheOpcodeTable := by
  intro w rest rest' i h
  have hw := eq_encode_append_of_decode h
  have hlength := congrArg List.length hw
  rw [List.length_cons, List.length_append, encode_length, ← row_lengthWords, Nat.add_comm i.row.lengthWords] at hlength
  have hcovers : i.row.covers w = true := row_covers_first_word hw
  refine ⟨row_mem_opcodeTable i, hcovers, fun r hr hrw => ?_, hlength⟩
  exact eq_of_wordKind_pattern hr (row_mem_opcodeTable i)
    ((wordKind_of_covers hr hrw).symm.trans (wordKind_of_covers (row_mem_opcodeTable i) hcovers))

/-- Settles O5: the decoder is run on each of the seven word sequences. -/
theorem wordsOfTheSpecsProgramsDecode : Obligations.WordsOfTheSpecsProgramsDecode :=
  ⟨rfl, rfl, rfl, rfl, rfl, rfl, rfl⟩

/-- Settles O6: only the block operations have an op id, and each is its encoder's kind. -/
theorem opIdIsTheWordsKind : Obligations.OpIdIsTheWordsKind := by
  intro i op h
  cases i with
  | f32tof16 d s =>
    obtain rfl := Option.some.inj h
    exact ⟨_, rfl, wordKind_harnessWord ..⟩
  | f16tof32 d s =>
    obtain rfl := Option.some.inj h
    exact ⟨_, rfl, wordKind_harnessWord ..⟩
  | li32 d imm => simp [Instr.opId] at h
  | li16 d imm => simp [Instr.opId] at h

/-- Settles O7, by the fetch's own equation. -/
theorem stepRunsTheDecodedInstruction : Obligations.StepRunsTheDecodedInstruction :=
  fun _ _ _ => step_of_decode

/-- Settles O8: of the three answers of a fetch, the hypotheses leave one. -/
theorem stepStopsWhereThereIsNoInstruction : Obligations.StepStopsWhereThereIsNoInstruction := by
  intro s
  rcases State.fetch_cases s with ⟨i, rest, hd, hf⟩ | ⟨hp, hf⟩ | ⟨e, hne, hd, hf⟩
  · refine ⟨fun hp => ?_, fun e _ he => ?_⟩
    · simp [hp, decode] at hd
    · simp [hd] at he
  · exact ⟨fun _ => by simp [step, hf], fun _ hp' => absurd hp hp'⟩
  · refine ⟨fun hp => ?_, fun e' _ he => ?_⟩
    · simp [hp, decode, hne.symm] at hd
    · obtain rfl : e = e' := by simpa [hd] using he
      simp [step, hf]

/-- Settles O9: the words put before the pending ones are those that encode the instruction. -/
theorem loadedTableWordIsRunNext : Obligations.LoadedTableWordIsRunNext := by
  intro s nbits w i h
  have hd : decode (s.withFetchWord nbits w).pending = .ok (i, s.pending) := by
    rw [State.withFetchWord, State.insertTableWord_pending, tableInstrWords_of_decodeTableWord h]
    exact decode_encode_append i s.pending
  exact step_of_decode hd

end Sys2Proof.Proofs
end

section
/-! Each instruction's effect as an equivalence (30_encoding.md R49), the wires it leaves written, and the step and the
run of a straight-line program (10_state.md R16). -/

namespace Sys2Proof.Machine

theorem exec_f32tof16_eq_next_iff {d src : WireIx} {s t : State} :
    exec (.f32tof16 d src) s = .next t ↔
      ∃ x, s.w[src] = some x ∧ t = (s.driveF32In x).writeH d (f32ToF16 x) := by
  refine ⟨fun h => ?_, fun ⟨x, hx, ht⟩ => ht ▸ execF32tof16_of_written d hx⟩
  rcases exec_next_cases h with ⟨_, _, x, hi, hx, ht⟩ | ⟨_, _, _, hi, -⟩ | ⟨_, _, hi, -⟩ | ⟨_, _, hi, -⟩
  · obtain ⟨rfl, rfl⟩ := Instr.f32tof16.inj hi
    exact ⟨x, hx, ht⟩
  all_goals nomatch hi

theorem exec_f16tof32_eq_next_iff {d src : WireIx} {s t : State} :
    exec (.f16tof32 d src) s = .next t ↔
      ∃ x, s.h[src] = some x ∧ t = (s.driveF16In x).writeW d (f16ToF32 Config.decNan x) := by
  refine ⟨fun h => ?_, fun ⟨x, hx, ht⟩ => ht ▸ execF16tof32_of_written d hx⟩
  rcases exec_next_cases h with ⟨_, _, _, hi, -⟩ | ⟨_, _, x, hi, hx, ht⟩ | ⟨_, _, hi, -⟩ | ⟨_, _, hi, -⟩
  · nomatch hi
  · obtain ⟨rfl, rfl⟩ := Instr.f16tof32.inj hi
    exact ⟨x, hx, ht⟩
  all_goals nomatch hi

theorem exec_li32_eq_next_iff {d : WireIx} {imm : BitVec 32} {s t : State} :
    exec (.li32 d imm) s = .next t ↔ t = s.writeW d imm := by
  rw [exec, execLi32, Host.Outcome.next.injEq, eq_comm]

theorem exec_li16_eq_next_iff {d : WireIx} {imm : BitVec 16} {s t : State} :
    exec (.li16 d imm) s = .next t ↔ t = s.writeH d imm := by
  rw [exec, execLi16, Host.Outcome.next.injEq, eq_comm]

/-! Running an instruction on its own next state drives and writes the same again. -/

@[simp] theorem State.writeW_writeW_same (s : State) (n : WireIx) (v v' : F32) :
    (s.writeW n v).writeW n v' = s.writeW n v' := by
  simp [State.writeW]

@[simp] theorem State.writeH_writeH_same (s : State) (n : WireIx) (v v' : F16) :
    (s.writeH n v).writeH n v' = s.writeH n v' := by
  simp [State.writeH]

theorem State.driveF32In_writeH_driveF32In (s : State) (n : WireIx) (x x' : F32) (v : F16) :
    ((s.driveF32In x).writeH n v).driveF32In x' = (s.driveF32In x').writeH n v := rfl

theorem State.driveF16In_writeW_driveF16In (s : State) (n : WireIx) (x x' : F16) (v : F32) :
    ((s.driveF16In x).writeW n v).driveF16In x' = (s.driveF16In x').writeW n v := rfl

/-! No instruction touches the words still to run. -/

theorem exec_next_pending {i : Instr} {s t : State} (h : exec i s = .next t) : t.pending = s.pending := by
  rcases exec_next_cases h with ⟨_, _, _, -, -, rfl⟩ | ⟨_, _, _, -, -, rfl⟩ | ⟨_, _, -, rfl⟩ | ⟨_, _, -, rfl⟩ <;> rfl

end Sys2Proof.Machine

namespace Sys2Proof.Safety

open Sys2Proof.Machine

/-! The wires a state holds a value on. -/

@[simp] theorem writtenOf_w_get (s : State) (n : WireIx) : (writtenOf s).w[n] = s.w[n].isSome := by
  simp [writtenOf]

@[simp] theorem writtenOf_h_get (s : State) (n : WireIx) : (writtenOf s).h[n] = s.h[n].isSome := by
  simp [writtenOf]

/-- Writing a value marks its place and no other. -/
theorem ofFn_isSome_set {α : Type} (v : Vector (Option α) 8) (d : WireIx) (x : α) :
    Vector.ofFn (fun n : WireIx => (v.set d (some x))[n].isSome) =
      (Vector.ofFn fun n : WireIx => v[n].isSome).set d true := by
  ext i hi
  by_cases hdi : d.val = i <;> simp [Vector.getElem_set, hdi]

theorem writtenOf_writeW (s : State) (n : WireIx) (v : F32) :
    writtenOf (s.writeW n v) = { writtenOf s with w := (writtenOf s).w.set n true } :=
  congrArg (Written.mk · (writtenOf s).h) (ofFn_isSome_set s.w n v)

theorem writtenOf_writeH (s : State) (n : WireIx) (v : F16) :
    writtenOf (s.writeH n v) = { writtenOf s with h := (writtenOf s).h.set n true } :=
  congrArg (Written.mk (writtenOf s).w) (ofFn_isSome_set s.h n v)

/-- The static check's account of the written wires is the run's. -/
theorem writtenOf_exec {i : Instr} {s t : State} (h : exec i s = .next t) :
    writtenOf t = i.marks (writtenOf s) := by
  rcases exec_next_cases h with ⟨d, _, x, rfl, -, rfl⟩ | ⟨d, _, x, rfl, -, rfl⟩ | ⟨_, _, rfl, rfl⟩ | ⟨_, _, rfl, rfl⟩
  · rw [writtenOf_writeH]; rfl
  · rw [writtenOf_writeW]; rfl
  · exact writtenOf_writeW ..
  · exact writtenOf_writeH ..

theorem get_set_true {v : Vector Bool 8} (d : WireIx) {n : WireIx} (h : v[n] = true) : (v.set d true)[n] = true := by
  rw [Fin.getElem_fin] at h ⊢
  rw [Vector.getElem_set, h, ite_self]

/-- No instruction unmarks a wire. -/
theorem marks_w {c : Written} (i : Instr) {n : WireIx} (h : c.w[n] = true) : (i.marks c).w[n] = true := by
  cases i with
  | f32tof16 _ _ => exact h
  | f16tof32 d _ => exact get_set_true d h
  | li32 d _ => exact get_set_true d h
  | li16 _ _ => exact h

theorem marks_h {c : Written} (i : Instr) {n : WireIx} (h : c.h[n] = true) : (i.marks c).h[n] = true := by
  cases i with
  | f32tof16 d _ => exact get_set_true d h
  | f16tof32 _ _ => exact h
  | li32 _ _ => exact h
  | li16 d _ => exact get_set_true d h

theorem exec_completes_iff_wellFormed (i : Instr) (s : State) :
    (∃ t, exec i s = .next t) ↔ i.wellFormed (writtenOf s) = true := by
  cases i with
  | f32tof16 d src =>
    simp only [exec_f32tof16_eq_next_iff, Instr.wellFormed, writtenOf_w_get, Option.isSome_iff_exists]
    exact ⟨fun ⟨_, x, hx, _⟩ => ⟨x, hx⟩, fun ⟨x, hx⟩ => ⟨_, x, hx, rfl⟩⟩
  | f16tof32 d src =>
    simp only [exec_f16tof32_eq_next_iff, Instr.wellFormed, writtenOf_h_get, Option.isSome_iff_exists]
    exact ⟨fun ⟨_, x, hx, _⟩ => ⟨x, hx⟩, fun ⟨x, hx⟩ => ⟨_, x, hx, rfl⟩⟩
  | li32 d imm => exact ⟨fun _ => rfl, fun _ => ⟨_, rfl⟩⟩
  | li16 d imm => exact ⟨fun _ => rfl, fun _ => ⟨_, rfl⟩⟩

end Sys2Proof.Safety

namespace Sys2Proof.Machine

open Sys2Proof.Safety

theorem step_of_no_pending {s : State} (h : s.pending = []) : step s = .refused .endOfRun := by
  simp [step, State.fetch, h, decode]

/-- One step of a loaded program that is not at its end: it completes, and what is left is loaded. -/
theorem step_of_wellFormedAfter_cons {s : State} {i : Instr} {is : List Instr} (hp : s.pending = encodeAll (i :: is))
    (hwf : wellFormedAfter (writtenOf s) (i :: is) = true) :
    ∃ t, step s = .next t ∧ t.pending = encodeAll is ∧ writtenOf t = i.marks (writtenOf s) ∧
      wellFormedAfter (writtenOf t) is = true := by
  obtain ⟨hi, his⟩ := Bool.and_eq_true_iff.1 hwf
  have hd : decode s.pending = .ok (i, encodeAll is) := hp ▸ decode_encode_append i _
  obtain ⟨t, ht⟩ := (exec_completes_iff_wellFormed i { s with pending := encodeAll is }).2 hi
  have hmarks : writtenOf t = i.marks (writtenOf s) := (writtenOf_exec ht :)
  exact ⟨t, (step_of_decode hd).trans ht, exec_next_pending ht, hmarks, hmarks ▸ his⟩

/-- A step takes at least one word off. -/
theorem step_next_pending_length_lt {s t : State} (h : step s = .next t) : t.pending.length < s.pending.length := by
  obtain ⟨i, rest, hd, ht⟩ := step_next_cases h
  rw [exec_next_pending ht, eq_encode_append_of_decode hd, List.length_append, encode_length]
  exact Nat.lt_add_of_pos_left (lengthWords_pos i)

theorem core_run_succ {s t : State} (h : step s = .next t) (k : Nat) :
    Sys2Proof.core.run (k + 1) s = Sys2Proof.core.run k t := by
  have hcore : Sys2Proof.core.step s = .next t := h
  simp only [Host.Core.run, hcore]

end Sys2Proof.Machine
end

section
/-! The statements about the instructions' effects and frames (10_state.md R21, R23; 20_memory.md R26; 30_encoding.md
R49; 70_reset_and_hazards.md R120, R122). -/

namespace Sys2Proof.Proofs

open Sys2Proof.Machine Sys2Proof.Safety

/-- Settles O38: each destination holds the block's function of the source's value. -/
theorem resultsDependOnTheSourceOnly : Obligations.ResultsDependOnTheSourceOnly := by
  refine ⟨fun d d' src src' s s' t t' hsrc h h' => ?_, fun d d' src src' s s' t t' hsrc h h' => ?_⟩
  · obtain ⟨x, hx, rfl⟩ := exec_f32tof16_eq_next_iff.1 h
    obtain ⟨x', hx', rfl⟩ := exec_f32tof16_eq_next_iff.1 h'
    obtain rfl : x = x' := Option.some.inj (hx.symm.trans (hsrc.trans hx'))
    rw [State.writeH_get_same, State.writeH_get_same]
  · obtain ⟨x, hx, rfl⟩ := exec_f16tof32_eq_next_iff.1 h
    obtain ⟨x', hx', rfl⟩ := exec_f16tof32_eq_next_iff.1 h'
    obtain rfl : x = x' := Option.some.inj (hx.symm.trans (hsrc.trans hx'))
    rw [State.writeW_get_same, State.writeW_get_same]

/-- Settles O39: the second run drives and writes what the first did, its source being in the other wire file. -/
theorem evaluationIsIdempotent : Obligations.EvaluationIsIdempotent := by
  intro i s t h
  cases i with
  | f32tof16 d src =>
    obtain ⟨x, hx, rfl⟩ := exec_f32tof16_eq_next_iff.1 h
    exact exec_f32tof16_eq_next_iff.2
      ⟨x, hx, by rw [State.driveF32In_writeH_driveF32In, State.writeH_writeH_same]⟩
  | f16tof32 d src =>
    obtain ⟨x, hx, rfl⟩ := exec_f16tof32_eq_next_iff.1 h
    exact exec_f16tof32_eq_next_iff.2
      ⟨x, hx, by rw [State.driveF16In_writeW_driveF16In, State.writeW_writeW_same]⟩
  | li32 d imm =>
    obtain rfl := exec_li32_eq_next_iff.1 h
    exact exec_li32_eq_next_iff.2 (State.writeW_writeW_same ..).symm
  | li16 d imm =>
    obtain rfl := exec_li16_eq_next_iff.1 h
    exact exec_li16_eq_next_iff.2 (State.writeH_writeH_same ..).symm

/-- Settles O40: each block's operation leaves the other's source and port alone, and the two write different wire
files. -/
theorem evaluationsOfTheTwoBlocksCommute : Obligations.EvaluationsOfTheTwoBlocksCommute := by
  intro d src d' src' s x y hd hd' hx hy
  have hy' : ((s.driveF32In x).writeH d (f32ToF16 x)).h[src'] = some y :=
    (State.writeH_get_other _ _ hd).trans hy
  have hx' : ((s.driveF16In y).writeW d' (f16ToF32 Config.decNan y)).w[src] = some x :=
    (State.writeW_get_other _ _ hd').trans hx
  exact ⟨_, _, _, execF32tof16_of_written d hx, execF16tof32_of_written d' hy', execF16tof32_of_written d' hy,
    execF32tof16_of_written d hx'⟩

/-- Settles O41: a load is one write. -/
theorem loadImmediateWritesItsWire : Obligations.LoadImmediateWritesItsWire :=
  ⟨fun _ _ _ => exec_li32_eq_next_iff.2 rfl, fun _ _ _ => exec_li16_eq_next_iff.2 rfl⟩

/-- Settles O42: each completed instruction's next state is one write, after driving the block's own port. -/
theorem instructionsChangeOnlyTheirDestination : Obligations.InstructionsChangeOnlyTheirDestination := by
  refine ⟨fun d src s t h => ?encode, fun d src s t h => ?decode, fun d imm s t h => ?load32,
    fun d imm s t h => ?load16⟩
  case encode =>
    obtain ⟨x, -, rfl⟩ := exec_f32tof16_eq_next_iff.1 h
    exact ⟨fun n hn => State.writeH_get_other _ _ hn.symm, fun _ => rfl, rfl, rfl⟩
  case decode =>
    obtain ⟨x, -, rfl⟩ := exec_f16tof32_eq_next_iff.1 h
    exact ⟨fun n hn => State.writeW_get_other _ _ hn.symm, fun _ => rfl, rfl, rfl⟩
  case load32 =>
    obtain rfl := exec_li32_eq_next_iff.1 h
    exact ⟨fun n hn => State.writeW_get_other _ _ hn.symm, fun _ => rfl, rfl, rfl, rfl⟩
  case load16 =>
    obtain rfl := exec_li16_eq_next_iff.1 h
    exact ⟨fun n hn => State.writeH_get_other _ _ hn.symm, fun _ => rfl, rfl, rfl, rfl⟩

/-- Settles O43, by the meanings' unwritten cases. -/
theorem unwrittenWireReadIsRefused : Obligations.UnwrittenWireReadIsRefused :=
  ⟨fun d _ _ => execF32tof16_of_unwritten d, fun d _ _ => execF16tof32_of_unwritten d⟩

/-- Settles O44, instruction by instruction. -/
theorem instructionCompletesExactlyWhenWellFormed : Obligations.InstructionCompletesExactlyWhenWellFormed :=
  exec_completes_iff_wellFormed

/-- Settles O46: the write to the destination leaves the driven port as it was. -/
theorem portsStayDrivenAfterAnEvaluation : Obligations.PortsStayDrivenAfterAnEvaluation := by
  refine ⟨fun d src s t h => ?encode, fun d src s t h => ?decode⟩
  case encode =>
    obtain ⟨x, hx, rfl⟩ := exec_f32tof16_eq_next_iff.1 h
    exact ⟨hx.symm, f32ToF16 x, State.sampleF16Out_of_driven rfl, State.writeH_get_same ..⟩
  case decode =>
    obtain ⟨x, hx, rfl⟩ := exec_f16tof32_eq_next_iff.1 h
    exact ⟨hx.symm, f16ToF32 Config.decNan x, State.sampleF32Out_of_driven rfl, State.writeW_get_same ..⟩

/-- Settles O47: both wire files start as copies of `none`. -/
theorem resetLeavesEveryWireUnwritten : Obligations.ResetLeavesEveryWireUnwritten := by
  refine ⟨fun n => ?_, fun n => ?_, rfl, rfl, rfl⟩
  · exact Vector.getElem_replicate ..
  · exact Vector.getElem_replicate ..

end Sys2Proof.Proofs
end

section
/-! The statements about runs (10_state.md R16; 70_reset_and_hazards.md R122). -/

namespace Sys2Proof.Proofs

open Sys2Proof.Machine Sys2Proof.Safety

/-- Settles O49: the step runs the program's first instruction, and the check holds of what is left. -/
theorem stepKeepsLoaded : Obligations.StepKeepsLoaded := by
  rintro s t ⟨is, hp, hwf⟩ hst
  cases is with
  | nil => simp [step_of_no_pending hp] at hst
  | cons i is =>
    obtain ⟨t', ht', hp', -, hwf'⟩ := step_of_wellFormedAfter_cons hp hwf
    obtain rfl : t = t' := Host.Outcome.next.inj (hst.symm.trans ht')
    exact ⟨is, hp', hwf'⟩

/-- Settles O48, with the empty program. -/
theorem resetIsLoaded : Obligations.ResetIsLoaded := ⟨[], rfl, rfl⟩

/-- Settles O50: a program is empty or has a first instruction, which the check lets complete. -/
theorem loadedStateCanGoOn : Obligations.LoadedStateCanGoOn := by
  rintro s ⟨is, hp, hwf⟩
  cases is with
  | nil => exact .inl hp
  | cons i is =>
    obtain ⟨t, ht, -⟩ := step_of_wellFormedAfter_cons hp hwf
    exact .inr ⟨t, ht⟩

/-- Settles O51, by induction on the program. -/
theorem wellFormedProgramsRunToTheirEnd : Obligations.WellFormedProgramsRunToTheirEnd := by
  intro is
  induction is with
  | nil => exact fun s hp _ => ⟨s, rfl, hp, step_of_no_pending hp, rfl⟩
  | cons i is ih =>
    intro s hp hwf
    obtain ⟨t, ht, hp', hmarks, hwf'⟩ := step_of_wellFormedAfter_cons hp hwf
    obtain ⟨u, hrun, hend, hstop, hwritten⟩ := ih t hp' hwf'
    exact ⟨u, (core_run_succ ht _).trans hrun, hend, hstop, by rw [hwritten, hmarks, List.foldl_cons]⟩

/-- Settles O52, by induction on the number of pending words: a step that is not refused takes one off. -/
theorem everyRunEnds : Obligations.EveryRunEnds := by
  intro s
  induction hn : s.pending.length using Nat.strong_induction_on generalizing s with
  | _ n ih =>
    cases hs : step s with
    | next t =>
      have hlt := step_next_pending_length_lt hs
      obtain ⟨k, hk, u, r, hrun, hstop⟩ := ih _ (hn ▸ hlt) t rfl
      exact ⟨k + 1, by omega, u, r, (core_run_succ hs k).trans hrun, hstop⟩
    | fault r => nomatch r
    | refused r => exact ⟨0, Nat.zero_le _, s, r, rfl, hs⟩

/-- Settles O53: the written wires after a step are those before it and the instruction's destination. -/
theorem writtenWiresStayWritten : Obligations.WrittenWiresStayWritten := by
  intro s t h
  obtain ⟨i, rest, -, ht⟩ := step_next_cases h
  have hmarks : writtenOf t = i.marks (writtenOf s) := (writtenOf_exec ht :)
  refine ⟨fun n hn => ?_, fun n hn => ?_⟩
  · rw [← writtenOf_w_get] at hn ⊢
    exact hmarks ▸ marks_w i hn
  · rw [← writtenOf_h_get] at hn ⊢
    exact hmarks ▸ marks_h i hn

end Sys2Proof.Proofs
end

section
/-! The encoder's block field by field, as the one formula of R63 gives it, and how many inputs have given fields. -/

namespace Sys2Proof.Machine

@[simp] theorem f16Sign_f32ToF16 (x : F32) : f16Sign (f32ToF16 x) = f32Sign x := by
  rw [f32ToF16_eq_packF16, f16Sign_packF16]

@[simp] theorem f16Exp_f32ToF16 (x : F32) : f16Exp (f32ToF16 x) = rebiasToF16 (f32Exp x) := by
  rw [f32ToF16_eq_packF16, f16Exp_packF16]

@[simp] theorem f16Frac_f32ToF16 (x : F32) : f16Frac (f32ToF16 x) = narrowFrac (f32Frac x) := by
  rw [f32ToF16_eq_packF16, f16Frac_packF16]

theorem f16_ext {a b : F16} (hs : f16Sign a = f16Sign b) (hE : f16Exp a = f16Exp b) (hF : f16Frac a = f16Frac b) :
    a = b := by
  rw [← packF16_fields a, hs, hE, hF, packF16_fields]

theorem f32_ext {a b : F32} (hs : f32Sign a = f32Sign b) (he : f32Exp a = f32Exp b) (hf : f32Frac a = f32Frac b) :
    a = b := by
  rw [← packF32_fields a, hs, he, hf, packF32_fields]

/-! The re-biasing and the narrowing take intervals to points (R67). -/

theorem rebiasToF16_eq_zero_iff {e : BitVec 8} : rebiasToF16 e = 0#5 ↔ e.toNat ≤ 112 := by
  have h := rebiasToF16_toNat e
  rw [← BitVec.toNat_inj, BitVec.toNat_zero]
  omega

theorem rebiasToF16_eq_ones_iff {e : BitVec 8} : rebiasToF16 e = 31#5 ↔ 143 ≤ e.toNat := by
  have h := rebiasToF16_toNat e
  rw [← BitVec.toNat_inj, BitVec.toNat_ofNat]
  omega

theorem rebiasToF16_eq_iff {e : BitVec 8} {E : BitVec 5} (h0 : E ≠ 0#5) (h31 : E ≠ 31#5) :
    rebiasToF16 e = E ↔ e.toNat = E.toNat + 112 := by
  have h := rebiasToF16_toNat e
  have hE := E.isLt
  rw [ne_eq, ← BitVec.toNat_inj, BitVec.toNat_ofNat] at h0 h31
  rw [← BitVec.toNat_inj]
  omega

theorem narrowFrac_eq_iff {f : BitVec 23} {F : BitVec 10} :
    narrowFrac f = F ↔ F.toNat * 2 ^ 13 ≤ f.toNat ∧ f.toNat ≤ F.toNat * 2 ^ 13 + (2 ^ 13 - 1) := by
  rw [← BitVec.toNat_inj, narrowFrac_toNat]
  omega

/-- The bit vectors of an interval against the numbers of the interval. -/
def bitVecIccEquiv {w a b : Nat} (hb : b < 2 ^ w) :
    { v : BitVec w // a ≤ v.toNat ∧ v.toNat ≤ b } ≃ Finset.Icc a b where
  toFun v := ⟨v.1.toNat, Finset.mem_Icc.2 v.2⟩
  invFun k := ⟨BitVec.ofNat w k, by
    rw [BitVec.toNat_ofNat, Nat.mod_eq_of_lt ((Finset.mem_Icc.1 k.2).2.trans_lt hb)]
    exact Finset.mem_Icc.1 k.2⟩
  left_inv v := Subtype.ext (by simp)
  right_inv k := Subtype.ext (Nat.mod_eq_of_lt ((Finset.mem_Icc.1 k.2).2.trans_lt hb))

theorem card_bitVec_Icc {w a b : Nat} (hb : b < 2 ^ w) :
    Nat.card { v : BitVec w // a ≤ v.toNat ∧ v.toNat ≤ b } = b + 1 - a := by
  rw [Nat.card_congr (bitVecIccEquiv hb), Nat.card_eq_fintype_card, Fintype.card_coe, Nat.card_Icc]

theorem card_subtype_congr {α : Type} {p q : α → Prop} (h : ∀ a, p a ↔ q a) :
    Nat.card { a // p a } = Nat.card { a // q a } :=
  Nat.card_congr (Equiv.subtypeEquivRight h)

theorem card_f16_of_exp (p : BitVec 5 → Prop) :
    Nat.card { x : F16 // p (f16Exp x) } = 2 * (Nat.card { E // p E } * 2 ^ 10) := by
  rw [card_subtype_congr fun x => (and_iff_left (a := p (f16Exp x)) trivial).symm, card_f16_of_fields p fun _ => True,
    Nat.card_congr (Equiv.subtypeUnivEquiv fun _ => trivial), card_bitVec]

theorem card_rebiasToF16_fiber (E : BitVec 5) :
    Nat.card { e : BitVec 8 // rebiasToF16 e = E } = if E = 0#5 ∨ E = 31#5 then 113 else 1 := by
  by_cases h0 : E = 0#5
  · subst h0
    rw [card_subtype_congr (q := fun e => 0 ≤ e.toNat ∧ e.toNat ≤ 112)
      fun e => rebiasToF16_eq_zero_iff.trans (by omega), card_bitVec_Icc (by decide)]
    rfl
  by_cases h31 : E = 31#5
  · subst h31
    rw [card_subtype_congr (q := fun e => 143 ≤ e.toNat ∧ e.toNat ≤ 255)
      fun e => rebiasToF16_eq_ones_iff.trans (by omega), card_bitVec_Icc (by decide)]
    rfl
  · have hE := E.isLt
    rw [card_subtype_congr (q := fun e => E.toNat + 112 ≤ e.toNat ∧ e.toNat ≤ E.toNat + 112)
      fun e => (rebiasToF16_eq_iff h0 h31).trans (by omega), card_bitVec_Icc (by omega), if_neg (by simp [h0, h31])]
    omega

theorem card_narrowFrac_fiber (F : BitVec 10) : Nat.card { f : BitVec 23 // narrowFrac f = F } = 2 ^ 13 := by
  have hF := F.isLt
  rw [card_subtype_congr fun _ => narrowFrac_eq_iff, card_bitVec_Icc (by omega)]
  omega

/-- The inputs with a given result: its sign, an exponent that re-biases to its own, a fraction that narrows to its
own. -/
def f32ToF16FiberEquiv (y : F16) :
    { x : F32 // f32ToF16 x = y } ≃
      { e : BitVec 8 // rebiasToF16 e = f16Exp y } × { f : BitVec 23 // narrowFrac f = f16Frac y } where
  toFun x := (⟨f32Exp x, by rw [← f16Exp_f32ToF16, x.2]⟩, ⟨f32Frac x, by rw [← f16Frac_f32ToF16, x.2]⟩)
  invFun p := ⟨packF32 (f16Sign y) p.1 p.2, f16_ext (by simp) (by simp [p.1.2]) (by simp [p.2.2])⟩
  left_inv x := Subtype.ext (f32_ext (by simp [← x.2]) (by simp) (by simp))
  right_inv p := by simp

end Sys2Proof.Machine
end

section
/-! The two blocks one after the other (41_decoder.md R82 to R87): the exponent of a decoded pattern, which patterns
decode to which outputs, and both round trips. -/

namespace Sys2Proof.Machine

theorem f32Exp_decNan : f32Exp Config.decNan = 0xFF#8 := (Safety.admissibleNan_decNan).1

theorem f32Frac_decNan_ne_zero : f32Frac Config.decNan ≠ 0#23 := (Safety.admissibleNan_decNan).2

theorem f32Exp_f16ToF32_of_ones {x : F16} (hE : f16Exp x = 31#5) :
    f32Exp (f16ToF32 Config.decNan x) = 0xFF#8 := by
  by_cases hF : f16Frac x = 0#10
  · rw [f16ToF32_infinity _ hE hF, f32Exp_packF32]
  · rw [f16ToF32_nan _ hE hF, f32Exp_decNan]

/-- The exponent of every output: 0, 255, or the re-biased one in between (R82). -/
theorem f32Exp_f16ToF32_toNat (x : F16) :
    (f32Exp (f16ToF32 Config.decNan x)).toNat =
      if f16Exp x = 0#5 then 0 else if f16Exp x = 31#5 then 255 else (f16Exp x).toNat + 112 := by
  split_ifs with h0 h31
  · rw [f16ToF32_exp_zero _ h0]; rfl
  · rw [f32Exp_f16ToF32_of_ones h31]; rfl
  · rw [f16ToF32_normal _ h31 h0, f32Exp_packF32, rebiasToF32_toNat]

theorem f32Exp_f16ToF32_eq_zero_iff {x : F16} : f32Exp (f16ToF32 Config.decNan x) = 0#8 ↔ f16Exp x = 0#5 := by
  rw [← BitVec.toNat_inj, f32Exp_f16ToF32_toNat]
  split_ifs <;> simp_all

theorem f32Exp_f16ToF32_eq_ones_iff {x : F16} : f32Exp (f16ToF32 Config.decNan x) = 255#8 ↔ f16Exp x = 31#5 := by
  have hE := (f16Exp x).isLt
  rw [← BitVec.toNat_inj, f32Exp_f16ToF32_toNat, BitVec.toNat_ofNat]
  split_ifs with h0 h31
  · simp [h0]
  · simp [h31]
  · simp [h31]; omega

theorem f32Exp_f16ToF32_mid_iff {x : F16} :
    (113 ≤ (f32Exp (f16ToF32 Config.decNan x)).toNat ∧ (f32Exp (f16ToF32 Config.decNan x)).toNat ≤ 142) ↔
      f16Exp x ≠ 0#5 ∧ f16Exp x ≠ 31#5 := by
  have hE := (f16Exp x).isLt
  rw [f32Exp_f16ToF32_toNat]
  split_ifs with h0 h31
  · simp [h0]
  · simp [h31]
  · refine iff_of_true ?_ ⟨h0, h31⟩
    rw [← BitVec.toNat_inj, BitVec.toNat_ofNat] at h0 h31
    omega

/-! Which patterns give which output. -/

theorem f16ToF32_eq_zero_iff {x : F16} : f16ToF32 Config.decNan x = 0#32 ↔ f16Exp x = 0#5 :=
  ⟨fun h => f32Exp_f16ToF32_eq_zero_iff.1 (h ▸ rfl), f16ToF32_exp_zero _⟩

theorem f16ToF32_eq_decNan_iff {x : F16} :
    f16ToF32 Config.decNan x = Config.decNan ↔ f16Exp x = 31#5 ∧ f16Frac x ≠ 0#10 := by
  refine ⟨fun h => ?_, fun ⟨hE, hF⟩ => f16ToF32_nan _ hE hF⟩
  have hE : f16Exp x = 31#5 := f32Exp_f16ToF32_eq_ones_iff.1 (h.symm ▸ f32Exp_decNan)
  refine ⟨hE, fun hF => f32Frac_decNan_ne_zero ?_⟩
  rw [← h, f16ToF32_infinity _ hE hF, f32Frac_packF32]

/-- The two infinities are the patterns of all exponent bits and no fraction bit. -/
theorem infinite_iff_fields {y : F32} :
    (y = 0x7F800000#32 ∨ y = 0xFF800000#32) ↔ f32Exp y = 255#8 ∧ f32Frac y = 0#23 := by
  refine ⟨?_, fun ⟨he, hf⟩ => ?_⟩
  · rintro (rfl | rfl) <;> decide
  · rw [← packF32_fields y, he, hf]
    generalize f32Sign y = s
    revert s; decide

theorem f16ToF32_infinite_iff {x : F16} :
    (f16ToF32 Config.decNan x = 0x7F800000#32 ∨ f16ToF32 Config.decNan x = 0xFF800000#32) ↔
      f16Exp x = 31#5 ∧ f16Frac x = 0#10 := by
  rw [infinite_iff_fields, f32Exp_f16ToF32_eq_ones_iff]
  refine and_congr_right fun hE => ⟨fun hf => ?_, fun hF => ?_⟩
  · by_contra hF
    exact f32Frac_decNan_ne_zero (by rwa [f16ToF32_nan _ hE hF] at hf)
  · rw [f16ToF32_infinity _ hE hF, f32Frac_packF32]

/-- The outputs, case by case (R82). -/
theorem f16ToF32_output_cases (x : F16) :
    f16ToF32 Config.decNan x = 0x00000000#32 ∨ f16ToF32 Config.decNan x = 0x7F800000#32 ∨
    f16ToF32 Config.decNan x = 0xFF800000#32 ∨ f16ToF32 Config.decNan x = Config.decNan ∨
    (113 ≤ (f32Exp (f16ToF32 Config.decNan x)).toNat ∧ (f32Exp (f16ToF32 Config.decNan x)).toNat ≤ 142 ∧
      (f16ToF32 Config.decNan x).extractLsb' 0 13 = 0#13) := by
  by_cases h0 : f16Exp x = 0#5
  · exact .inl (f16ToF32_exp_zero _ h0)
  by_cases h31 : f16Exp x = 31#5
  · by_cases hF : f16Frac x = 0#10
    · exact .inr ((f16ToF32_infinite_iff.2 ⟨h31, hF⟩).imp_right .inl)
    · exact .inr (.inr (.inr (.inl (f16ToF32_nan _ h31 hF))))
  · obtain ⟨h113, h142⟩ := f32Exp_f16ToF32_mid_iff.2 ⟨h0, h31⟩
    refine .inr (.inr (.inr (.inr ⟨h113, h142, ?_⟩)))
    rw [f16ToF32_normal _ h31 h0, packF32_widenFrac, BitVec.extractLsb'_append_eq_right]

/-! Encode after decode (R84) and decode after encode (R85). -/

/-- A normal or an infinity comes back from decoding and encoding. -/
theorem f32ToF16_f16ToF32 {x : F16} (h0 : f16Exp x ≠ 0#5) (hnan : f16Exp x = 31#5 → f16Frac x = 0#10) :
    f32ToF16 (f16ToF32 Config.decNan x) = x := by
  by_cases h31 : f16Exp x = 31#5
  · have hF := hnan h31
    rw [f16ToF32_infinity _ h31 hF, f32ToF16_infinity (f32Exp_packF32 ..) (f32Frac_packF32 ..), f32Sign_packF32, ← h31,
      ← hF, packF16_fields]
  · rw [f16ToF32_normal _ h31 h0, f32ToF16_eq_packF16]
    simp only [f32Sign_packF32, f32Exp_packF32, f32Frac_packF32, narrowFrac_widenFrac]
    rw [(rebiasToF16_eq_iff h0 h31).2 (rebiasToF32_toNat _), packF16_fields]

section decodeAfterEncode
variable (x : F32)

theorem f16ToF32_f32ToF16_low (h : (f32Exp x).toNat ≤ 112) : f16ToF32 Config.decNan (f32ToF16 x) = 0#32 :=
  f16ToF32_exp_zero _ ((f16Exp_f32ToF16 x).trans (rebiasToF16_eq_zero_iff.2 h))

theorem f16ToF32_f32ToF16_mid (h113 : 113 ≤ (f32Exp x).toNat) (h142 : (f32Exp x).toNat ≤ 142) :
    f16ToF32 Config.decNan (f32ToF16 x) = x.extractLsb' 13 19 ++ 0#13 := by
  have h0 : f16Exp (f32ToF16 x) ≠ 0#5 := fun h => by
    rw [f16Exp_f32ToF16, rebiasToF16_eq_zero_iff] at h; omega
  have h31 : f16Exp (f32ToF16 x) ≠ 31#5 := fun h => by
    rw [f16Exp_f32ToF16, rebiasToF16_eq_ones_iff] at h; omega
  have hrebias := (rebiasToF16_eq_iff h0 h31).1 (f16Exp_f32ToF16 x).symm
  apply BitVec.eq_of_toNat_eq
  rw [f16ToF32_normal _ h31 h0, packF32_toNat, append_low_toNat, rebiasToF32_toNat, widenFrac_toNat, ← hrebias,
    f16Sign_f32ToF16, f16Frac_f32ToF16, narrowFrac_toNat, f32Sign_toNat, f32Exp_toNat, f32Frac_toNat,
    BitVec.extractLsb'_toNat, Nat.shiftRight_eq_div_pow, BitVec.toNat_zero]
  have := x.isLt
  omega

theorem f16ToF32_f32ToF16_infinity (h : 143 ≤ (f32Exp x).toNat) (hF : x.extractLsb' 13 10 = 0#10) :
    f16ToF32 Config.decNan (f32ToF16 x) = packF32 (f32Sign x) 0xFF#8 0#23 := by
  rw [f16ToF32_infinity, f16Sign_f32ToF16]
  · rw [f16Exp_f32ToF16, rebiasToF16_high _ h]
  · rw [f16Frac_f32ToF16, narrowFrac_f32Frac, hF]

theorem f16ToF32_f32ToF16_nan (h : 143 ≤ (f32Exp x).toNat) (hF : x.extractLsb' 13 10 ≠ 0#10) :
    f16ToF32 Config.decNan (f32ToF16 x) = Config.decNan := by
  apply f16ToF32_nan
  · rw [f16Exp_f32ToF16, rebiasToF16_high _ h]
  · rwa [f16Frac_f32ToF16, narrowFrac_f32Frac]

end decodeAfterEncode

theorem packF32_infinity_eq_iff {x : F32} :
    packF32 (f32Sign x) 0xFF#8 0#23 = x ↔ x = 0x7F800000#32 ∨ x = 0xFF800000#32 := by
  rw [infinite_iff_fields]
  refine ⟨fun h => ?_, fun ⟨he, hf⟩ => ?_⟩
  · rw [← h, f32Exp_packF32, f32Frac_packF32]
    exact ⟨rfl, rfl⟩
  · rw [← he, ← hf, packF32_fields]

/-- Clearing the thirteen low bits changes nothing exactly if they are zero. -/
theorem high_append_zero_eq_iff {x : F32} : x.extractLsb' 13 19 ++ 0#13 = x ↔ x.extractLsb' 0 13 = 0#13 := by
  have h : x.extractLsb' 13 19 ++ x.extractLsb' 0 13 = x := BitVec.extractLsb'_append_extractLsb' (w := 19)
  refine ⟨fun hx => ?_, fun hx => hx ▸ h⟩
  rw [← hx, BitVec.extractLsb'_append_eq_right]

/-- Exactly these inputs survive both blocks (R85). -/
theorem f16ToF32_f32ToF16_eq_self_iff (x : F32) :
    f16ToF32 Config.decNan (f32ToF16 x) = x ↔
      (113 ≤ (f32Exp x).toNat ∧ (f32Exp x).toNat ≤ 142 ∧ x.extractLsb' 0 13 = 0#13) ∨
      x = 0x00000000#32 ∨ x = 0x7F800000#32 ∨ x = 0xFF800000#32 ∨
      (x = Config.decNan ∧ x.extractLsb' 13 10 ≠ 0#10) := by
  have exp_zero : x = 0x00000000#32 → (f32Exp x).toNat = 0 := fun h => h ▸ rfl
  have exp_inf : (x = 0x7F800000#32 ∨ x = 0xFF800000#32) → (f32Exp x).toNat = 255 := fun h => by
    rw [(infinite_iff_fields.1 h).1]; rfl
  have exp_nan : x = Config.decNan → (f32Exp x).toNat = 255 := fun h => by rw [h, f32Exp_decNan]; rfl
  rw [← or_assoc (a := x = 0x7F800000#32)]
  rcases Nat.lt_or_ge (f32Exp x).toNat 113 with hlow | h113
  · have hinf := mt exp_inf (by omega)
    have hnan := mt exp_nan (by omega)
    rw [f16ToF32_f32ToF16_low x (by omega), eq_comm]
    simp only [Nat.not_le.2 hlow, hinf, hnan, false_and, false_or, or_false]
  rcases Nat.lt_or_ge (f32Exp x).toNat 143 with h142 | h143
  · have hzero := mt exp_zero (by omega)
    have hinf := mt exp_inf (by omega)
    have hnan := mt exp_nan (by omega)
    rw [f16ToF32_f32ToF16_mid x h113 (by omega), high_append_zero_eq_iff]
    simp only [h113, Nat.le_of_lt_succ h142, hzero, hinf, hnan, true_and, false_and, or_false]
  have hzero := mt exp_zero (by omega)
  have hmid : ¬(f32Exp x).toNat ≤ 142 := by omega
  by_cases hF : x.extractLsb' 13 10 = 0#10
  · rw [f16ToF32_f32ToF16_infinity x h143 hF, packF32_infinity_eq_iff]
    simp only [hmid, hzero, hF, ne_eq, not_true_eq_false, false_and, and_false, false_or, or_false]
  · have hinf : ¬(x = 0x7F800000#32 ∨ x = 0xFF800000#32) := fun h => hF <| by
      rw [← narrowFrac_f32Frac, (infinite_iff_fields.1 h).2]; rfl
    rw [f16ToF32_f32ToF16_nan x h143 hF, eq_comm]
    simp only [hmid, hzero, hinf, hF, ne_eq, not_false_eq_true, false_and, and_false, and_true, false_or]

end Sys2Proof.Machine
end

section
/-! The spec's consequences for the encoder and for both blocks (40_encoder.md section 3, 41_decoder.md section 3). -/

namespace Sys2Proof.Proofs

open Sys2Proof.Machine Sys2Proof.Safety

/-- Settles O19: the clamp, with `- 127 + 15` written as `- 112`. -/
theorem encoderIsTheSingleFormula : Obligations.EncoderIsTheSingleFormula := by
  intro x
  refine encodes_of_rebias (x := x) ?_
  rw [rebiasToF16, clamp_eq_max_min, f32Exp]
  congr 4
  omega

/-- Settles O20: a NaN's fraction below `0x2000` narrows to zero. -/
theorem encoderTurnsSmallNansIntoInfinity : Obligations.EncoderTurnsSmallNansIntoInfinity := by
  intro x he (h1 : 1 ≤ (f32Frac x).toNat) (hmax : (f32Frac x).toNat ≤ 0x1FFF)
  have hf : f32Frac x ≠ 0#23 := fun h => absurd (h ▸ h1) (by decide)
  have hnarrow : narrowFrac (f32Frac x) = 0#10 := narrowFrac_of_lt (by omega)
  exact encodes_iff.2 (hnarrow ▸ f32ToF16_nan he hf).symm

/-- Settles O22: the result's sign field is the input's. -/
theorem encoderPreservesTheSign : Obligations.EncoderPreservesTheSign := by
  intro x y h
  rw [encodes_iff.1 h]
  exact f16Sign_f32ToF16 x

/-- Settles O23: the exponents that re-bias to a field times the fractions that narrow to one. -/
theorem encoderPreimagesAreCounted : Obligations.EncoderPreimagesAreCounted := by
  intro y
  rw [card_subtype_congr fun x => encodes_iff.trans eq_comm, Nat.card_congr (f32ToF16FiberEquiv y), Nat.card_prod,
    card_rebiasToF16_fiber, card_narrowFrac_fiber, ite_mul, one_mul]
  rfl

/-- Settles O32: each class of outputs is that of a condition on the input's two fields, and the inputs of such a
condition are counted field by field. -/
theorem decoderOutputsAreCounted : Obligations.DecoderOutputsAreCounted := by
  obtain ⟨-, plusInfinity, minusInfinity⟩ := decoderGivesSignedInfinity
  obtain ⟨-, plusZero, -⟩ := decoderGivesPlusZero
  obtain ⟨genericNan, nanCount, -⟩ := decoderGivesTheOneGenericNan
  refine ⟨fun y => ?outputs, ?zeros, ?infinities, ?nans, ?normals⟩
  case outputs =>
    refine ⟨fun ⟨x, hx⟩ => decodes_iff.1 hx ▸ f16ToF32_output_cases x, ?_⟩
    rintro (rfl | rfl | rfl | rfl | ⟨h113, h142, hlow⟩)
    · exact ⟨0x0000#16, plusZero⟩
    · exact ⟨0x7C00#16, plusInfinity⟩
    · exact ⟨0xFC00#16, minusInfinity⟩
    · exact ⟨0x7C01#16, genericNan _ (by decide) (by decide)⟩
    · exact ⟨f32ToF16 y,
        decodes_iff.2 ((f16ToF32_f32ToF16_mid y h113 h142).trans (high_append_zero_eq_iff.2 hlow)).symm⟩
  case zeros =>
    rw [card_subtype_congr fun x => (decodes_iff.trans eq_comm).trans f16ToF32_eq_zero_iff, card_f16_of_exp (· = 0#5),
      Nat.card_unique]
    norm_num
  case infinities =>
    rw [card_subtype_congr fun x =>
        (or_congr (decodes_iff.trans eq_comm) (decodes_iff.trans eq_comm)).trans f16ToF32_infinite_iff,
      card_f16_of_fields (· = 31#5) (· = 0#10), Nat.card_unique, Nat.card_unique]
  case nans =>
    rw [card_subtype_congr fun x => (decodes_iff.trans eq_comm).trans f16ToF32_eq_decNan_iff]
    exact nanCount
  case normals =>
    have normal_iff (x : F16) :
        (∃ y, Decodes x y ∧ 113 ≤ (f32Exp y).toNat ∧ (f32Exp y).toNat ≤ 142) ↔ f16Exp x ≠ 0#5 ∧ f16Exp x ≠ 31#5 := by
      simp only [decodes_iff, exists_eq_left, f32Exp_f16ToF32_mid_iff]
    refine (card_subtype_congr normal_iff).trans ?_
    rw [card_f16_of_exp fun E => E ≠ 0#5 ∧ E ≠ 31#5, Nat.card_eq_fintype_card]
    decide

/-- Settles O33: an output that is neither +0 nor the generic NaN encodes back to its one input. -/
theorem decoderIsInjectiveOnNormalsAndInfinities : Obligations.DecoderIsInjectiveOnNormalsAndInfinities := by
  intro a b y ha hb
  have hab : f16ToF32 Config.decNan a = f16ToF32 Config.decNan b := (decodes_iff.1 ha).symm.trans (decodes_iff.1 hb)
  by_cases h0 : f16Exp a = 0#5
  · exact .inr (.inl ⟨h0, f16ToF32_eq_zero_iff.1 (hab ▸ f16ToF32_eq_zero_iff.2 h0)⟩)
  by_cases hnan : f16Exp a = 31#5 ∧ f16Frac a ≠ 0#10
  · obtain ⟨hE, hF⟩ := f16ToF32_eq_decNan_iff.1 (hab ▸ f16ToF32_eq_decNan_iff.2 hnan)
    exact .inr (.inr ⟨hnan.1, hnan.2, hE, hF⟩)
  · left
    have h0b : f16Exp b ≠ 0#5 := fun h => h0 (f16ToF32_eq_zero_iff.1 (hab.trans (f16ToF32_eq_zero_iff.2 h)))
    have hnanb : ¬(f16Exp b = 31#5 ∧ f16Frac b ≠ 0#10) := fun h =>
      hnan (f16ToF32_eq_decNan_iff.1 (hab.trans (f16ToF32_eq_decNan_iff.2 h)))
    rw [← f32ToF16_f16ToF32 h0 (by simpa using hnan), hab, f32ToF16_f16ToF32 h0b (by simpa using hnanb)]

/-- Settles O35: re-biasing and widening are undone where the decoder kept the fields. -/
theorem encodeAfterDecode : Obligations.EncodeAfterDecode := by
  refine ⟨fun h x hx => ?_, encodes_iff.2 (by decide)⟩
  obtain rfl := decodes_iff.1 hx
  refine ⟨fun hh => encodes_iff.2 (Eq.symm ?back), fun hE => ?zero, fun hE hF y hy => ?nan⟩
  case back =>
    rcases hh with ⟨h1, h30⟩ | rfl | rfl
    · change 1 ≤ (f16Exp h).toNat at h1
      change (f16Exp h).toNat ≤ 30 at h30
      exact f32ToF16_f16ToF32 (fun h0 => absurd (h0 ▸ h1) (by decide)) fun h31 => absurd (h31 ▸ h30) (by decide)
    · exact f32ToF16_f16ToF32 (by decide) fun _ => rfl
    · exact f32ToF16_f16ToF32 (by decide) fun _ => rfl
  case zero =>
    rw [f16ToF32_exp_zero _ hE]
    exact encodes_iff.2 (by decide)
  case nan => rwa [f16ToF32_nan _ hE hF]

/-- Settles O36: low exponents give +0, middle ones lose the thirteen low bits, high ones give an infinity or the
generic NaN; each is compared with the input. -/
theorem decodeAfterEncode : Obligations.DecodeAfterEncode := by
  intro x z y hxy hyz
  obtain rfl := encodes_iff.1 hxy
  obtain rfl := decodes_iff.1 hyz
  refine ⟨?comesBack, f16ToF32_f32ToF16_mid x, f16ToF32_f32ToF16_low x, f16ToF32_f32ToF16_infinity x,
    f16ToF32_f32ToF16_nan x⟩
  case comesBack => exact f16ToF32_f32ToF16_eq_self_iff x

/-- Settles O37: where the decoded pattern encodes back to its input, its sign is the input's. -/
theorem decoderDropsTheSignOfZeroAndNan : Obligations.DecoderDropsTheSignOfZeroAndNan := by
  refine ⟨fun h x hx => ?_, fun y hy => ?minusZero⟩
  · obtain rfl := decodes_iff.1 hx
    refine ⟨fun hE => ?zero, fun hE hF => ?nan, fun h0 hnan => ?kept⟩
    case zero => rw [f16ToF32_exp_zero _ hE]; rfl
    case nan => rw [f16ToF32_nan _ hE hF]
    case kept =>
      refine (f16Sign_f32ToF16 _).symm.trans ?_
      rw [f32ToF16_f16ToF32 h0 hnan]; rfl
  case minusZero =>
    rw [encodes_iff.1 hy]
    exact decodes_iff.2 (f16ToF32_f32ToF16_low _ (by decide)).symm

end Sys2Proof.Proofs
end

section
/-! The numbers the patterns stand for (30_encoding.md R38, R44), case by case, and their bounds. -/

namespace Sys2Proof.Machine

theorem signFactor_mul_self (s : BitVec 1) : signFactor s * signFactor s = 1 := by
  unfold signFactor
  split_ifs <;> norm_num

theorem signFactor_of_ne_zero {s : BitVec 1} (h : s ≠ 0#1) : signFactor s = -1 :=
  if_pos (by revert s; decide)

@[simp] theorem abs_signFactor (s : BitVec 1) : |signFactor s| = 1 := by
  unfold signFactor
  split_ifs <;> norm_num

section f32
variable {x : F32}

theorem f32Value_infinity (he : f32Exp x = 255#8) (hf : f32Frac x = 0#23) :
    f32Value x = .infinite (f32Sign x == 1#1) := by
  simp [f32Value, he, hf]

theorem f32Value_nan (he : f32Exp x = 255#8) (hf : f32Frac x ≠ 0#23) : f32Value x = .notANumber := by
  simp [f32Value, he, hf]

theorem f32Value_exp_zero (he : f32Exp x = 0#8) :
    f32Value x = .finite (signFactor (f32Sign x) * (2 : ℚ) ^ (-126 : Int) * ((f32Frac x).toNat / 2 ^ 23)) := by
  simp [f32Value, he]

theorem f32Value_normal (h255 : f32Exp x ≠ 255#8) (h0 : f32Exp x ≠ 0#8) :
    f32Value x = .finite
      (signFactor (f32Sign x) * (2 : ℚ) ^ (((f32Exp x).toNat : Int) - 127) * (1 + (f32Frac x).toNat / 2 ^ 23)) := by
  simp [f32Value, h255, h0]

theorem f32Value_zero : f32Value 0#32 = .finite 0 := by
  have hf : f32Frac 0#32 = 0#23 := by decide
  rw [f32Value_exp_zero (by decide), hf, BitVec.toNat_zero, Nat.cast_zero, zero_div, mul_zero]

theorem f32Exp_ne_ones_of_finite {q : ℚ} (h : f32Value x = .finite q) : f32Exp x ≠ 255#8 := by
  intro he
  by_cases hf : f32Frac x = 0#23
  · simp [f32Value_infinity he hf] at h
  · simp [f32Value_nan he hf] at h

theorem exists_f32Value_finite (h : f32Exp x ≠ 255#8) : ∃ q, f32Value x = .finite q := by
  by_cases h0 : f32Exp x = 0#8
  · exact ⟨_, f32Value_exp_zero h0⟩
  · exact ⟨_, f32Value_normal h h0⟩

/-- A fraction is below one. -/
theorem f32Frac_div_lt_one (x : F32) : ((f32Frac x).toNat : ℚ) / 2 ^ 23 < 1 := by
  have h : ((f32Frac x).toNat : ℚ) < 2 ^ 23 := by exact_mod_cast (f32Frac x).isLt
  rwa [div_lt_one (by positivity)]

/-- The exponent bounds the magnitude from above, that of a subnormal too. -/
theorem abs_lt_of_f32Value {q : ℚ} (h : f32Value x = .finite q) : |q| < (2 : ℚ) ^ (((f32Exp x).toNat : Int) - 126) := by
  have hfrac := f32Frac_div_lt_one x
  by_cases h0 : f32Exp x = 0#8
  · obtain rfl := NumValue.finite.inj ((f32Value_exp_zero h0).symm.trans h)
    rw [abs_mul, abs_mul, abs_signFactor, one_mul, abs_of_nonneg (by positivity), abs_of_nonneg (by positivity), h0]
    exact mul_lt_of_lt_one_right (by positivity) hfrac
  · obtain rfl := NumValue.finite.inj ((f32Value_normal (f32Exp_ne_ones_of_finite h) h0).symm.trans h)
    rw [abs_mul, abs_mul, abs_signFactor, one_mul, abs_of_nonneg (by positivity), abs_of_nonneg (by positivity),
      show ((f32Exp x).toNat : Int) - 126 = ((f32Exp x).toNat : Int) - 127 + 1 by ring, zpow_add_one₀ two_ne_zero]
    gcongr
    linarith

/-- And from below, where the pattern is no zero and no subnormal. -/
theorem le_abs_of_f32Value {q : ℚ} (h0 : f32Exp x ≠ 0#8) (h : f32Value x = .finite q) :
    (2 : ℚ) ^ (((f32Exp x).toNat : Int) - 127) ≤ |q| := by
  obtain rfl := NumValue.finite.inj ((f32Value_normal (f32Exp_ne_ones_of_finite h) h0).symm.trans h)
  rw [abs_mul, abs_mul, abs_signFactor, one_mul, abs_of_nonneg (by positivity), abs_of_nonneg (by positivity)]
  refine le_mul_of_one_le_right (by positivity) (le_add_of_nonneg_right (by positivity))

theorem abs_f32Value_lt_iff {q : ℚ} (h : f32Value x = .finite q) {k : Nat} (hk : 0 < k) :
    |q| < (2 : ℚ) ^ ((k : Int) - 127) ↔ (f32Exp x).toNat < k := by
  constructor
  · intro hq
    by_contra hlt
    have h0 : f32Exp x ≠ 0#8 := fun h0 => hlt (by rw [h0]; exact hk)
    have hpow : (2 : ℚ) ^ ((k : Int) - 127) ≤ (2 : ℚ) ^ (((f32Exp x).toNat : Int) - 127) :=
      zpow_le_zpow_right₀ (by norm_num) (by omega)
    exact absurd (hq.trans_le (hpow.trans (le_abs_of_f32Value h0 h))) (lt_irrefl _)
  · intro hlt
    exact (abs_lt_of_f32Value h).trans_le (zpow_le_zpow_right₀ (by norm_num) (by omega))

end f32

section f16
variable {x : F16}

theorem f16Value_infinity (hE : f16Exp x = 31#5) (hF : f16Frac x = 0#10) :
    f16Value x = .infinite (f16Sign x == 1#1) := by
  simp only [f16Value, f16Class_infinity hE hF]

theorem f16Value_nan (hE : f16Exp x = 31#5) (hF : f16Frac x ≠ 0#10) : f16Value x = .notANumber := by
  simp only [f16Value, f16Class_nan hE hF]

theorem f16Value_exp_zero (hE : f16Exp x = 0#5) : f16Value x = .finite 0 := by
  by_cases hF : f16Frac x = 0#10
  · simp only [f16Value, f16Class_zero hE hF]
  · simp only [f16Value, f16Class_subnormal hE hF]

theorem f16Value_normal (h31 : f16Exp x ≠ 31#5) (h0 : f16Exp x ≠ 0#5) :
    f16Value x = .finite
      (signFactor (f16Sign x) * (2 : ℚ) ^ (((f16Exp x).toNat : Int) - 15) * (1 + (f16Frac x).toNat / 2 ^ 10)) := by
  simp only [f16Value, f16Class_normal h31 h0]

end f16

/-- Decoding keeps the number (R83). -/
theorem f32Value_f16ToF32 (x : F16) : f32Value (f16ToF32 Config.decNan x) = f16Value x := by
  by_cases h0 : f16Exp x = 0#5
  · rw [f16ToF32_exp_zero _ h0, f32Value_zero, f16Value_exp_zero h0]
  by_cases h31 : f16Exp x = 31#5
  · by_cases hF : f16Frac x = 0#10
    · rw [f16ToF32_infinity _ h31 hF, f32Value_infinity (f32Exp_packF32 ..) (f32Frac_packF32 ..), f32Sign_packF32,
        f16Value_infinity h31 hF]
    · rw [f16ToF32_nan _ h31 hF, f32Value_nan f32Exp_decNan f32Frac_decNan_ne_zero, f16Value_nan h31 hF]
  · have he0 := f32Exp_f16ToF32_eq_zero_iff.not.2 h0
    have he255 := f32Exp_f16ToF32_eq_ones_iff.not.2 h31
    rw [f32Value_normal he255 he0, f16Value_normal h31 h0, f16ToF32_normal _ h31 h0, f32Sign_packF32, f32Exp_packF32,
      f32Frac_packF32, rebiasToF32_toNat, widenFrac_toNat]
    congr 2
    · congr 2; push_cast; ring
    · push_cast; ring

/-! An input in the range of the normal results, and its result, in units of the result's last place (R69). -/

/-- The fraction with its leading one: the magnitude of a normal pattern in units of its last place. -/
def f32Significand (x : F32) : Nat := 2 ^ 23 + (f32Frac x).toNat

theorem f32Significand_mod (x : F32) : f32Significand x % 2 ^ 13 = (x.extractLsb' 0 13).toNat := by
  rw [f32Significand, f32Frac_toNat, BitVec.extractLsb'_toNat, Nat.shiftRight_zero]
  omega

theorem f32Significand_div (x : F32) : f32Significand x / 2 ^ 13 = 2 ^ 10 + (narrowFrac (f32Frac x)).toNat := by
  rw [f32Significand, narrowFrac_toNat]
  omega

theorem cast_div_eq_iff (n : Nat) : ((n / 2 ^ 13 : Nat) : ℚ) = n / 2 ^ 13 ↔ n % 2 ^ 13 = 0 := by
  rw [eq_div_iff (by norm_num)]
  norm_cast
  omega

/-- The result's last place (R69). -/
def f16LastPlace (x : F32) : ℚ := (2 : ℚ) ^ (((f32Exp x).toNat : Int) - 137)

theorem f16LastPlace_pos (x : F32) : 0 < f16LastPlace x := zpow_pos two_pos _

section inRange
variable {x : F32} {q r : ℚ}

theorem f32Value_eq_significand (h255 : f32Exp x ≠ 255#8) (h0 : f32Exp x ≠ 0#8) (h : f32Value x = .finite q) :
    q = signFactor (f32Sign x) * (f16LastPlace x * (f32Significand x / 2 ^ 13)) := by
  obtain rfl := NumValue.finite.inj ((f32Value_normal h255 h0).symm.trans h)
  rw [show ((f32Exp x).toNat : Int) - 127 = ((f32Exp x).toNat : Int) - 137 + 10 by ring, zpow_add₀ two_ne_zero,
    f32Significand, f16LastPlace]
  push_cast
  ring

theorem f16Value_f32ToF16_eq_significand (h113 : 113 ≤ (f32Exp x).toNat) (h142 : (f32Exp x).toNat ≤ 142)
    (h : f16Value (f32ToF16 x) = .finite r) :
    r = signFactor (f32Sign x) * (f16LastPlace x * (f32Significand x / 2 ^ 13 : Nat)) := by
  have h0 : rebiasToF16 (f32Exp x) ≠ 0#5 := rebiasToF16_eq_zero_iff.not.2 (by omega)
  have h31 : rebiasToF16 (f32Exp x) ≠ 31#5 := rebiasToF16_eq_ones_iff.not.2 (by omega)
  have he := (rebiasToF16_eq_iff h0 h31).1 rfl
  have hvalue := f16Value_normal (x := f32ToF16 x) (by rwa [f16Exp_f32ToF16]) (by rwa [f16Exp_f32ToF16])
  obtain rfl := NumValue.finite.inj (hvalue.symm.trans h)
  rw [f16Sign_f32ToF16, f16Exp_f32ToF16, f16Frac_f32ToF16, f32Significand_div, f16LastPlace, he]
  rw [show (((rebiasToF16 (f32Exp x)).toNat : Int) - 15) =
    (((rebiasToF16 (f32Exp x)).toNat + 112 : Nat) : Int) - 137 + 10 by push_cast; ring, zpow_add₀ two_ne_zero]
  push_cast
  ring

/-! What R69 says of the two numbers. -/

variable (h113 : 113 ≤ (f32Exp x).toNat) (h142 : (f32Exp x).toNat ≤ 142)
  (hq : f32Value x = .finite q) (hr : f16Value (f32ToF16 x) = .finite r)

include h113 in
theorem f32Exp_ne_zero_of_inRange : f32Exp x ≠ 0#8 := fun h => absurd (h ▸ h113) (by decide)

include h113 hq in
theorem abs_input_eq : |q| = f16LastPlace x * (f32Significand x / 2 ^ 13) := by
  rw [f32Value_eq_significand (f32Exp_ne_ones_of_finite hq) (f32Exp_ne_zero_of_inRange h113) hq, abs_mul,
    abs_signFactor, one_mul]
  exact abs_of_nonneg (mul_nonneg (f16LastPlace_pos x).le (by positivity))

include h113 h142 hr in
theorem abs_result_eq : |r| = f16LastPlace x * (f32Significand x / 2 ^ 13 : Nat) := by
  rw [f16Value_f32ToF16_eq_significand h113 h142 hr, abs_mul, abs_signFactor, one_mul]
  exact abs_of_nonneg (mul_nonneg (f16LastPlace_pos x).le (Nat.cast_nonneg _))

include h113 h142 hq hr

theorem input_mul_result_pos : 0 < q * r := by
  have hu := f16LastPlace_pos x
  have hwhole : 0 < f32Significand x / 2 ^ 13 := by rw [f32Significand_div]; omega
  have hn : 0 < f32Significand x := by unfold f32Significand; omega
  rw [f32Value_eq_significand (f32Exp_ne_ones_of_finite hq) (f32Exp_ne_zero_of_inRange h113) hq,
    f16Value_f32ToF16_eq_significand h113 h142 hr, mul_mul_mul_comm, signFactor_mul_self, one_mul]
  exact mul_pos (mul_pos hu (by positivity)) (mul_pos hu (Nat.cast_pos.2 hwhole))

theorem abs_result_eq_floor : |r| = (⌊|q| / f16LastPlace x⌋ : ℚ) * f16LastPlace x := by
  have hfloor : ⌊(f32Significand x : ℚ) / 2 ^ 13⌋ = ((f32Significand x / 2 ^ 13 : Nat) : Int) := by
    exact_mod_cast Rat.floor_natCast_div_natCast (f32Significand x) (2 ^ 13)
  rw [abs_result_eq h113 h142 hr, abs_input_eq h113 hq, mul_div_cancel_left₀ _ (f16LastPlace_pos x).ne', hfloor,
    Int.cast_natCast, mul_comm]

theorem result_eq_input_iff : r = q ↔ x.extractLsb' 0 13 = 0#13 := by
  have hσ : signFactor (f32Sign x) ≠ 0 := fun h => by simpa [h] using abs_signFactor (f32Sign x)
  rw [f32Value_eq_significand (f32Exp_ne_ones_of_finite hq) (f32Exp_ne_zero_of_inRange h113) hq,
    f16Value_f32ToF16_eq_significand h113 h142 hr, mul_right_inj' hσ, mul_right_inj' (f16LastPlace_pos x).ne',
    cast_div_eq_iff, f32Significand_mod, ← BitVec.toNat_inj, BitVec.toNat_zero]

theorem abs_result_lt (hlow : x.extractLsb' 0 13 ≠ 0#13) : |r| < |q| := by
  have hne : ((f32Significand x / 2 ^ 13 : Nat) : ℚ) ≠ f32Significand x / 2 ^ 13 := by
    rw [ne_eq, cast_div_eq_iff, f32Significand_mod]
    exact fun h => hlow (BitVec.eq_of_toNat_eq h)
  have hle : ((f32Significand x / 2 ^ 13 : Nat) : ℚ) ≤ f32Significand x / 2 ^ 13 := by
    exact_mod_cast Nat.cast_div_le (α := ℚ) (m := f32Significand x) (n := 2 ^ 13)
  rw [abs_result_eq h113 h142 hr, abs_input_eq h113 hq]
  exact mul_lt_mul_of_pos_left (lt_of_le_of_ne hle hne) (f16LastPlace_pos x)

omit hr in
/-- An input of this range that is at least the largest finite result gives that result. -/
theorem f32ToF16_eq_largest (hlow : 65504 ≤ q) : f32ToF16 x = 0x7BFF#16 := by
  have habs : |q| = q := abs_of_nonneg (by linarith)
  have he : (f32Exp x).toNat = 142 := by
    have := (abs_f32Value_lt_iff hq (k := 142) (by norm_num)).not.1 (by rw [habs]; norm_num; linarith)
    omega
  have hn : 2047 * 2 ^ 13 ≤ f32Significand x := by
    have h := abs_input_eq h113 hq
    rw [habs, f16LastPlace, he] at h
    norm_num at h
    have : (2047 * 2 ^ 13 : ℚ) ≤ f32Significand x := by linarith
    exact_mod_cast this
  have hs : f32Sign x = 0#1 := by
    by_contra hs
    have hneg := f32Value_eq_significand (f32Exp_ne_ones_of_finite hq) (f32Exp_ne_zero_of_inRange h113) hq
    rw [← abs_input_eq h113 hq, signFactor_of_ne_zero hs, habs] at hneg
    linarith
  have hE : rebiasToF16 (f32Exp x) = 30#5 := (rebiasToF16_eq_iff (by decide) (by decide)).2 he
  have hF : narrowFrac (f32Frac x) = 1023#10 := by
    have hdiv := f32Significand_div x
    have hF := (narrowFrac (f32Frac x)).isLt
    apply BitVec.eq_of_toNat_eq
    rw [BitVec.toNat_ofNat]
    omega
  rw [f32ToF16_eq_packF16, hs, hE, hF]
  rfl

end inRange

end Sys2Proof.Machine
end

section
/-! The consumer's conversion to an integer, by the value of the decoded pattern (45_consumer_contract.md R92), and a
serialized pattern (20_memory.md R27). -/

namespace Sys2Proof.Machine

theorem Half.toInt_of_infinite {a : Half} {negative : Bool} (h : f32Value a.toF32 = .infinite negative) :
    a.toInt = .error .ofInfinity := by
  simp only [Half.toInt, h]

theorem Half.toInt_of_nan {a : Half} (h : f32Value a.toF32 = .notANumber) : a.toInt = .error .ofNan := by
  simp only [Half.toInt, h]

theorem Half.toInt_of_small {a : Half} {q : ℚ} (h : f32Value a.toF32 = .finite q) (hq : |q| < 2 ^ 16) :
    a.toInt = .ok (Config.convF32ToI32 a.toF32) := by
  obtain ⟨hlow, hhigh⟩ := abs_lt.1 hq
  have hrange : ¬(q < -2 ^ 31 ∨ 2 ^ 31 - 1 < q) := by
    rintro (h | h) <;> linarith
  simp only [Half.toInt, h, if_neg hrange]

/-- Every half float that is no infinity and no NaN is below `2^16` in magnitude. -/
theorem Half.exists_small_value {a : Half} (h31 : f16Exp a.bits ≠ 31#5) :
    ∃ q, f32Value a.toF32 = .finite q ∧ |q| < 2 ^ 16 := by
  obtain ⟨q, hq⟩ := exists_f32Value_finite (f32Exp_f16ToF32_eq_ones_iff.not.2 h31)
  refine ⟨q, hq, ?_⟩
  have hlt : (f32Exp a.toF32).toNat < 143 := by
    have := (f16Exp a.bits).isLt
    rw [Half.toF32, f32Exp_f16ToF32_toNat, if_neg h31]
    rw [ne_eq, ← BitVec.toNat_inj, BitVec.toNat_ofNat] at h31
    split_ifs <;> omega
  exact_mod_cast (abs_f32Value_lt_iff hq (by norm_num)).2 hlt

theorem append_bytes (x : F16) : x.extractLsb' 8 8 ++ x.extractLsb' 0 8 = x :=
  BitVec.extractLsb'_append_extractLsb' (w := 8)

end Sys2Proof.Machine
end

section
/-! The statements about values (40_encoder.md R68, R69; 41_decoder.md R83), about the integer conversion and about the
serializer. -/

namespace Sys2Proof.Proofs

open Sys2Proof.Machine Sys2Proof.Safety

/-- Settles O24: the result's exponent is 0 up to `e = 112` and 31 from `e = 143` on, and the exponent orders the
magnitudes. -/
theorem encoderExponentFollowsTheMagnitude : Obligations.EncoderExponentFollowsTheMagnitude := by
  intro x y q hxy hq
  obtain rfl := encodes_iff.1 hxy
  change (f16Exp _ = 0#5 ↔ _) ∧ (f16Exp _ = 31#5 ↔ _)
  rw [f16Exp_f32ToF16, rebiasToF16_eq_zero_iff, rebiasToF16_eq_ones_iff]
  have hlow := abs_f32Value_lt_iff hq (k := 113) (by norm_num)
  have hhigh := abs_f32Value_lt_iff hq (k := 143) (by norm_num)
  refine ⟨Nat.lt_succ_iff.symm.trans hlow.symm, ?_⟩
  rw [← not_lt, ← hhigh, not_lt]
  norm_num

/-- Settles O25: in units of the result's last place the input is `n / 2^13` for its significand `n`, and the result is
the whole part of it. -/
theorem encoderTruncatesTowardZero : Obligations.EncoderTruncatesTowardZero := by
  intro x y q r (h113 : 113 ≤ (f32Exp x).toNat) (h142 : (f32Exp x).toNat ≤ 142) hxy hq hr
  obtain rfl := encodes_iff.1 hxy
  exact ⟨input_mul_result_pos h113 h142 hq hr, abs_result_eq_floor h113 h142 hq hr,
    result_eq_input_iff h113 h142 hq hr, abs_result_lt h113 h142 hq hr,
    fun hlow _ => f32ToF16_eq_largest h113 h142 hq hlow⟩

/-- Settles O34, by the decoder's five cases. -/
theorem decoderIsExactOnValues : Obligations.DecoderIsExactOnValues := by
  intro x y h
  rw [decodes_iff.1 h, f32Value_f16ToF32]

/-- Settles O57: the decoded value is an infinity, no number, or small. -/
theorem halfToIntegerIsRefusedOnNonNumbersOnly : Obligations.HalfToIntegerIsRefusedOnNonNumbersOnly := by
  refine fun a => ⟨fun hE hF => ?infinity, fun hE hF => ?nan, fun h31 => ?number⟩
  case infinity => exact Half.toInt_of_infinite ((f32Value_f16ToF32 _).trans (f16Value_infinity hE hF))
  case nan => exact Half.toInt_of_nan ((f32Value_f16ToF32 _).trans (f16Value_nan hE hF))
  case number =>
    obtain ⟨q, hq, hsmall⟩ := Half.exists_small_value h31
    exact ⟨_, Half.toInt_of_small hq hsmall⟩

/-- Settles O58: the two bytes join to the pattern again, whichever stands first. -/
theorem serializationPreservesTheBits : Obligations.SerializationPreservesTheBits := by
  intro o x
  cases o with
  | leastSignificantFirst => exact congrArg some (append_bytes x)
  | mostSignificantFirst => exact congrArg some (append_bytes x)

end Sys2Proof.Proofs
end
